-- ==== Sys2Proof/Word.lean ====
section
/-! DEFINITION. The words of the machine: the widths of spec/10_state.md and of the opcode fields (spec/00_scope.md R5, R7). -/

namespace Sys2Proof

/-- A byte of memory, a general register, a timer, an immediate `nn` (R10, R17, R22). -/
abbrev Byte := BitVec 8

/-- An opcode, `I`, `PC`, a return address, the 16 key latches (R13, R14, R16, R21). -/
abbrev Word := BitVec 16

/-- A 4-bit opcode field: a register number `x` or `y` (R63). -/
abbrev Reg := BitVec 4

/-- The 12-bit address field `nnn` (R63). -/
abbrev Addr := BitVec 12

end Sys2Proof
end

