-- ==== Sys2Proof/Syntax.lean ====
section
/-! DEFINITION. The 34 instructions of spec/30_encoding.md R70, one constructor per row of spec/opcode_table.json, in the
table's order. Fields have the widths of R63, so a register number, an immediate or an address cannot be out of range;
the row count of DXYN is a count and its bound is checked by WellFormed. -/

namespace Sys2Proof

/-- An instruction of the opcode table. -/
inductive Instr where
  /-- 00E0 CLS (R140). -/
  | cls
  /-- 00EE RET (R100). -/
  | ret
  /-- 1NNN JP addr (R101). -/
  | jpAddr (nnn : Addr)
  /-- 2NNN CALL addr (R102). -/
  | callAddr (nnn : Addr)
  /-- 3XNN SE Vx, byte (R104). -/
  | seByte (x : Reg) (nn : Byte)
  /-- 4XNN SNE Vx, byte (R105). -/
  | sneByte (x : Reg) (nn : Byte)
  /-- 5XY0 SE Vx, Vy (R106). -/
  | seReg (x y : Reg)
  /-- 6XNN LD Vx, byte (R111). -/
  | ldByte (x : Reg) (nn : Byte)
  /-- 7XNN ADD Vx, byte (R112). -/
  | addByte (x : Reg) (nn : Byte)
  /-- 8XY0 LD Vx, Vy (R113). -/
  | ldReg (x y : Reg)
  /-- 8XY1 OR Vx, Vy (R114). -/
  | orReg (x y : Reg)
  /-- 8XY2 AND Vx, Vy (R115). -/
  | andReg (x y : Reg)
  /-- 8XY3 XOR Vx, Vy (R116). -/
  | xorReg (x y : Reg)
  /-- 8XY4 ADD Vx, Vy (R117). -/
  | addReg (x y : Reg)
  /-- 8XY5 SUB Vx, Vy (R118). -/
  | subReg (x y : Reg)
  /-- 8XY6 SHR Vx, Vy (R119). -/
  | shr (x y : Reg)
  /-- 8XY7 SUBN Vx, Vy (R120). -/
  | subn (x y : Reg)
  /-- 8XYE SHL Vx, Vy (R121). -/
  | shl (x y : Reg)
  /-- 9XY0 SNE Vx, Vy (R107). -/
  | sneReg (x y : Reg)
  /-- ANNN LD I, addr (R130). -/
  | ldI (nnn : Addr)
  /-- BNNN JP V0, addr (R103). -/
  | jpV0 (nnn : Addr)
  /-- CXNN RND Vx, byte (R156). -/
  | rnd (x : Reg) (nn : Byte)
  /-- DXYN DRW Vx, Vy, nibble (R141): `n` is an unsigned row count, 0 to 15. -/
  | drw (x y : Reg) (n : Nat)
  /-- EX9E SKP Vx (R153). -/
  | skp (x : Reg)
  /-- EXA1 SKNP Vx (R154). -/
  | sknp (x : Reg)
  /-- FX07 LD Vx, DT (R150). -/
  | ldVxDt (x : Reg)
  /-- FX0A LD Vx, K (R155). -/
  | ldVxK (x : Reg)
  /-- FX15 LD DT, Vx (R151). -/
  | ldDtVx (x : Reg)
  /-- FX18 LD ST, Vx (R152). -/
  | ldStVx (x : Reg)
  /-- FX1E ADD I, Vx (R131). -/
  | addI (x : Reg)
  /-- FX29 LD F, Vx (R132). -/
  | ldF (x : Reg)
  /-- FX33 LD B, Vx (R133). -/
  | ldB (x : Reg)
  /-- FX55 LD [I], Vx (R134). -/
  | ldMemVx (x : Reg)
  /-- FX65 LD Vx, [I] (R135). -/
  | ldVxMem (x : Reg)
  deriving DecidableEq, Repr

end Sys2Proof
end

