-- ==== Sys2Proof/Decode.lean ====
section
/-! DEFINITION. Decoding, total on any word and any bytes, rejecting by name (spec/30_encoding.md R60 to R72), and the
encoder written from the same table. -/

namespace Sys2Proof

/-! ### Fields (R7, R63) -/

/-- `op = opcode[15:12]`. -/
def fieldOp (w : Word) : BitVec 4 := w.extractLsb' 12 4
/-- `x = opcode[11:8]`. -/
def fieldX (w : Word) : Reg := w.extractLsb' 8 4
/-- `y = opcode[7:4]`. -/
def fieldY (w : Word) : Reg := w.extractLsb' 4 4
/-- `n = opcode[3:0]`. -/
def fieldN (w : Word) : BitVec 4 := w.extractLsb' 0 4
/-- `nn = opcode[7:0]`. -/
def fieldNN (w : Word) : Byte := w.extractLsb' 0 8
/-- `nnn = opcode[11:0]`. -/
def fieldNNN (w : Word) : Addr := w.extractLsb' 0 12

/-- Why bytes are no instruction. -/
inductive DecodeError where
  /-- R71: the word matches none of the 34 rows. -/
  | unknownOpcode (w : Word)
  /-- R60: an instruction is exactly two bytes and fewer are there. -/
  | truncated
  deriving DecidableEq, Repr

/-- R66: the register-register group, selected by `n`. -/
def decodeGroup8 (w : Word) : Except DecodeError Instr :=
  let x := fieldX w
  let y := fieldY w
  let n := fieldN w
  if n = 0x0#4 then .ok (.ldReg x y)
  else if n = 0x1#4 then .ok (.orReg x y)
  else if n = 0x2#4 then .ok (.andReg x y)
  else if n = 0x3#4 then .ok (.xorReg x y)
  else if n = 0x4#4 then .ok (.addReg x y)
  else if n = 0x5#4 then .ok (.subReg x y)
  else if n = 0x6#4 then .ok (.shr x y)
  else if n = 0x7#4 then .ok (.subn x y)
  else if n = 0xE#4 then .ok (.shl x y)
  else .error (.unknownOpcode w)

/-- R67: the key tests, selected by `nn`. -/
def decodeGroupE (w : Word) : Except DecodeError Instr :=
  let x := fieldX w
  let nn := fieldNN w
  if nn = 0x9E#8 then .ok (.skp x)
  else if nn = 0xA1#8 then .ok (.sknp x)
  else .error (.unknownOpcode w)

/-- R68: timers, key wait, index and memory, selected by `nn`. -/
def decodeGroupF (w : Word) : Except DecodeError Instr :=
  let x := fieldX w
  let nn := fieldNN w
  if nn = 0x07#8 then .ok (.ldVxDt x)
  else if nn = 0x0A#8 then .ok (.ldVxK x)
  else if nn = 0x15#8 then .ok (.ldDtVx x)
  else if nn = 0x18#8 then .ok (.ldStVx x)
  else if nn = 0x1E#8 then .ok (.addI x)
  else if nn = 0x29#8 then .ok (.ldF x)
  else if nn = 0x33#8 then .ok (.ldB x)
  else if nn = 0x55#8 then .ok (.ldMemVx x)
  else if nn = 0x65#8 then .ok (.ldVxMem x)
  else .error (.unknownOpcode w)

/-- R64, R65, R69: decode by `op`, then by the whole word, `n` or `nn`. -/
def decode (w : Word) : Except DecodeError Instr :=
  let op := fieldOp w
  if op = 0x0#4 then
    if w = 0x00E0#16 then .ok .cls
    else if w = 0x00EE#16 then .ok .ret
    else .error (.unknownOpcode w)
  else if op = 0x1#4 then .ok (.jpAddr (fieldNNN w))
  else if op = 0x2#4 then .ok (.callAddr (fieldNNN w))
  else if op = 0x3#4 then .ok (.seByte (fieldX w) (fieldNN w))
  else if op = 0x4#4 then .ok (.sneByte (fieldX w) (fieldNN w))
  else if op = 0x5#4 then
    if fieldN w = 0x0#4 then .ok (.seReg (fieldX w) (fieldY w)) else .error (.unknownOpcode w)
  else if op = 0x6#4 then .ok (.ldByte (fieldX w) (fieldNN w))
  else if op = 0x7#4 then .ok (.addByte (fieldX w) (fieldNN w))
  else if op = 0x8#4 then decodeGroup8 w
  else if op = 0x9#4 then
    if fieldN w = 0x0#4 then .ok (.sneReg (fieldX w) (fieldY w)) else .error (.unknownOpcode w)
  else if op = 0xA#4 then .ok (.ldI (fieldNNN w))
  else if op = 0xB#4 then .ok (.jpV0 (fieldNNN w))
  else if op = 0xC#4 then .ok (.rnd (fieldX w) (fieldNN w))
  else if op = 0xD#4 then .ok (.drw (fieldX w) (fieldY w) (fieldN w).toNat)
  else if op = 0xE#4 then decodeGroupE w
  else decodeGroupF w

/-- R44: the byte at the lower address is the high half of the opcode. -/
def joinBytes (hi lo : Byte) : Word := hi ++ lo

/-- R60, R61: an instruction is always two bytes, big-endian; what is left over is returned. -/
def decodeBytes : List Byte → Except DecodeError (Instr × List Byte)
  | hi :: lo :: rest => (decode (joinBytes hi lo)).map fun i => (i, rest)
  | [_] => .error .truncated
  | [] => .error .truncated

/-! ### The encoder (R62, R70) -/

/-- Format NNN. -/
def wordNNN (op : BitVec 4) (nnn : Addr) : Word := op ++ nnn
/-- Format XNN. -/
def wordXNN (op : BitVec 4) (x : Reg) (nn : Byte) : Word := op ++ x ++ nn
/-- Formats XY and XYN. -/
def wordXYN (op : BitVec 4) (x y : Reg) (n : BitVec 4) : Word := op ++ x ++ y ++ n

/-- The word of a well-formed instruction, from the patterns of R70. -/
def encode : Instr → Word
  | .cls => 0x00E0#16
  | .ret => 0x00EE#16
  | .jpAddr nnn => wordNNN 0x1#4 nnn
  | .callAddr nnn => wordNNN 0x2#4 nnn
  | .seByte x nn => wordXNN 0x3#4 x nn
  | .sneByte x nn => wordXNN 0x4#4 x nn
  | .seReg x y => wordXYN 0x5#4 x y 0x0#4
  | .ldByte x nn => wordXNN 0x6#4 x nn
  | .addByte x nn => wordXNN 0x7#4 x nn
  | .ldReg x y => wordXYN 0x8#4 x y 0x0#4
  | .orReg x y => wordXYN 0x8#4 x y 0x1#4
  | .andReg x y => wordXYN 0x8#4 x y 0x2#4
  | .xorReg x y => wordXYN 0x8#4 x y 0x3#4
  | .addReg x y => wordXYN 0x8#4 x y 0x4#4
  | .subReg x y => wordXYN 0x8#4 x y 0x5#4
  | .shr x y => wordXYN 0x8#4 x y 0x6#4
  | .subn x y => wordXYN 0x8#4 x y 0x7#4
  | .shl x y => wordXYN 0x8#4 x y 0xE#4
  | .sneReg x y => wordXYN 0x9#4 x y 0x0#4
  | .ldI nnn => wordNNN 0xA#4 nnn
  | .jpV0 nnn => wordNNN 0xB#4 nnn
  | .rnd x nn => wordXNN 0xC#4 x nn
  | .drw x y n => wordXYN 0xD#4 x y (BitVec.ofNat 4 n)
  | .skp x => wordXNN 0xE#4 x 0x9E#8
  | .sknp x => wordXNN 0xE#4 x 0xA1#8
  | .ldVxDt x => wordXNN 0xF#4 x 0x07#8
  | .ldVxK x => wordXNN 0xF#4 x 0x0A#8
  | .ldDtVx x => wordXNN 0xF#4 x 0x15#8
  | .ldStVx x => wordXNN 0xF#4 x 0x18#8
  | .addI x => wordXNN 0xF#4 x 0x1E#8
  | .ldF x => wordXNN 0xF#4 x 0x29#8
  | .ldB x => wordXNN 0xF#4 x 0x33#8
  | .ldMemVx x => wordXNN 0xF#4 x 0x55#8
  | .ldVxMem x => wordXNN 0xF#4 x 0x65#8

/-- The high byte of a word, stored at the lower address (R44). -/
def highByte (w : Word) : Byte := w.extractLsb' 8 8
/-- The low byte of a word, stored at the higher address (R44). -/
def lowByte (w : Word) : Byte := w.extractLsb' 0 8

/-- The bytes of an instruction as they lie in memory. -/
def encodeBytes (i : Instr) : List Byte := [highByte (encode i), lowByte (encode i)]

/-! ### The table of R70 as data -/

/-- A row of R70: `w` is the instruction exactly when `w & mask = bits`. -/
structure Row where
  bits : Word
  mask : Word
  deriving DecidableEq, Repr

/-- The 34 rows of R70, in the table's order. -/
def opcodeRows : List Row :=
  [⟨0x00E0, 0xFFFF⟩, ⟨0x00EE, 0xFFFF⟩, ⟨0x1000, 0xF000⟩, ⟨0x2000, 0xF000⟩, ⟨0x3000, 0xF000⟩,
   ⟨0x4000, 0xF000⟩, ⟨0x5000, 0xF00F⟩, ⟨0x6000, 0xF000⟩, ⟨0x7000, 0xF000⟩] ++
  [⟨0x8000, 0xF00F⟩, ⟨0x8001, 0xF00F⟩, ⟨0x8002, 0xF00F⟩, ⟨0x8003, 0xF00F⟩, ⟨0x8004, 0xF00F⟩,
   ⟨0x8005, 0xF00F⟩, ⟨0x8006, 0xF00F⟩, ⟨0x8007, 0xF00F⟩, ⟨0x800E, 0xF00F⟩] ++
  [⟨0x9000, 0xF00F⟩, ⟨0xA000, 0xF000⟩, ⟨0xB000, 0xF000⟩, ⟨0xC000, 0xF000⟩, ⟨0xD000, 0xF000⟩,
   ⟨0xE09E, 0xF0FF⟩, ⟨0xE0A1, 0xF0FF⟩] ++
  [⟨0xF007, 0xF0FF⟩, ⟨0xF00A, 0xF0FF⟩, ⟨0xF015, 0xF0FF⟩, ⟨0xF018, 0xF0FF⟩, ⟨0xF01E, 0xF0FF⟩,
   ⟨0xF029, 0xF0FF⟩, ⟨0xF033, 0xF0FF⟩, ⟨0xF055, 0xF0FF⟩, ⟨0xF065, 0xF0FF⟩]

/-- Does a word match a row (R70)? -/
def Row.accepts (r : Row) (w : Word) : Bool := w &&& r.mask == r.bits

/-- The row of R70 an instruction belongs to. -/
def rowOf : Instr → Row
  | .cls => ⟨0x00E0, 0xFFFF⟩
  | .ret => ⟨0x00EE, 0xFFFF⟩
  | .jpAddr _ => ⟨0x1000, 0xF000⟩
  | .callAddr _ => ⟨0x2000, 0xF000⟩
  | .seByte _ _ => ⟨0x3000, 0xF000⟩
  | .sneByte _ _ => ⟨0x4000, 0xF000⟩
  | .seReg _ _ => ⟨0x5000, 0xF00F⟩
  | .ldByte _ _ => ⟨0x6000, 0xF000⟩
  | .addByte _ _ => ⟨0x7000, 0xF000⟩
  | .ldReg _ _ => ⟨0x8000, 0xF00F⟩
  | .orReg _ _ => ⟨0x8001, 0xF00F⟩
  | .andReg _ _ => ⟨0x8002, 0xF00F⟩
  | .xorReg _ _ => ⟨0x8003, 0xF00F⟩
  | .addReg _ _ => ⟨0x8004, 0xF00F⟩
  | .subReg _ _ => ⟨0x8005, 0xF00F⟩
  | .shr _ _ => ⟨0x8006, 0xF00F⟩
  | .subn _ _ => ⟨0x8007, 0xF00F⟩
  | .shl _ _ => ⟨0x800E, 0xF00F⟩
  | .sneReg _ _ => ⟨0x9000, 0xF00F⟩
  | .ldI _ => ⟨0xA000, 0xF000⟩
  | .jpV0 _ => ⟨0xB000, 0xF000⟩
  | .rnd _ _ => ⟨0xC000, 0xF000⟩
  | .drw _ _ _ => ⟨0xD000, 0xF000⟩
  | .skp _ => ⟨0xE09E, 0xF0FF⟩
  | .sknp _ => ⟨0xE0A1, 0xF0FF⟩
  | .ldVxDt _ => ⟨0xF007, 0xF0FF⟩
  | .ldVxK _ => ⟨0xF00A, 0xF0FF⟩
  | .ldDtVx _ => ⟨0xF015, 0xF0FF⟩
  | .ldStVx _ => ⟨0xF018, 0xF0FF⟩
  | .addI _ => ⟨0xF01E, 0xF0FF⟩
  | .ldF _ => ⟨0xF029, 0xF0FF⟩
  | .ldB _ => ⟨0xF033, 0xF0FF⟩
  | .ldMemVx _ => ⟨0xF055, 0xF0FF⟩
  | .ldVxMem _ => ⟨0xF065, 0xF0FF⟩

/-! ### The opcode table's numbering -/

/-- The word of a table row: bit 0 of `w` is the least significant bit of the one 16-bit word; bits above `nbits` are 0. -/
def tableWord (nbits w : Nat) : Word := BitVec.ofNat 16 (w % 2 ^ nbits)

/-- What the decoder reads from a table word laid out big-endian (R44); none where it refuses. -/
def decodeTableWord (nbits w : Nat) : Option Instr :=
  match decodeBytes [highByte (tableWord nbits w), lowByte (tableWord nbits w)] with
  | .ok (i, _) => some i
  | .error _ => none

end Sys2Proof
end

