-- ==== Sys2Proof/Config.lean ====
section
/-! DEFINITION. What an implementation fixes (the parameters of spec/00_scope.md R4) and the one free value
(the random byte of CXNN, spec/40_instruction_cycle.md R89). The parameters are plain data that State holds and that no
event changes, so a statement about every state speaks of every setting (log 1). -/

namespace Sys2Proof

/-- `SHIFT_SRC` (R4, D4): the register 8XY6 and 8XYE read. -/
inductive ShiftSrc where
  | vx
  | vy
  deriving DecidableEq, Repr

/-- `SHIFT_VF_ORDER` (R4, D5): whether a shift writes VF before or after its destination. -/
inductive ShiftVfOrder where
  | flagFirst
  | flagLast
  deriving DecidableEq, Repr

/-- `LDST_I_MODE` (R4, D6): what FX55 and FX65 leave in `I`. -/
inductive LdstIMode where
  | unchanged
  | incXPlus1
  | incX
  deriving DecidableEq, Repr

/-- The parameters of R4, taken once and never changed during a run. -/
structure Params where
  shiftSrc     : ShiftSrc
  shiftVfOrder : ShiftVfOrder
  ldstIMode    : LdstIMode
  /-- `FONT_TABLE` (R18, D18): the 80 bytes preloaded at 0x050 to 0x09F. -/
  fontTable    : Vector Byte 80
  deriving DecidableEq, Repr

/-- FREE VALUE (log 2): the byte drawn by the n-th execution of CXNN. R89: "a draw under no law". It has no body, so
nothing can be proved of its values and a claim about a program that executes CXNN holds for every value. -/
opaque Config.rnd : Nat → Byte

end Sys2Proof
end

