-- ==== Sys2Proof/Machine/Defaults.lean ====
section
/-! DEFINITION. The default of every parameter of spec/00_scope.md R4 (log 1). -/

namespace Sys2Proof.Machine

/-- Glyphs 0 to 7 of R19. -/
def defaultFontLow : Vector Byte 40 :=
  #v[0xF0, 0x90, 0x90, 0x90, 0xF0,  0x20, 0x60, 0x20, 0x20, 0x70,
     0xF0, 0x10, 0xF0, 0x80, 0xF0,  0xF0, 0x10, 0xF0, 0x10, 0xF0,
     0x90, 0x90, 0xF0, 0x10, 0x10,  0xF0, 0x80, 0xF0, 0x10, 0xF0,
     0xF0, 0x80, 0xF0, 0x90, 0xF0,  0xF0, 0x10, 0x20, 0x40, 0x40]

/-- Glyphs 8 to F of R19. -/
def defaultFontHigh : Vector Byte 40 :=
  #v[0xF0, 0x90, 0xF0, 0x90, 0xF0,  0xF0, 0x90, 0xF0, 0x10, 0xF0,
     0xF0, 0x90, 0xF0, 0x90, 0x90,  0xE0, 0x90, 0xE0, 0x90, 0xE0,
     0xF0, 0x80, 0x80, 0x80, 0xF0,  0xE0, 0x90, 0x90, 0x90, 0xE0,
     0xF0, 0x80, 0xF0, 0x80, 0xF0,  0xF0, 0x80, 0xF0, 0x80, 0x80]

/-- R19, the default FONT_TABLE: glyph `d` is the five bytes from 5 * d on. -/
def defaultFont : Vector Byte 80 := defaultFontLow ++ defaultFontHigh

/-- R4: the defaults of the four parameters. DESIGN CHOICE (log 1): they are where State.reset stands; statements about
every state hold for every setting. -/
def defaultParams : Params where
  shiftSrc     := .vx
  shiftVfOrder := .flagFirst
  ldstIMode    := .unchanged
  fontTable    := defaultFont

end Sys2Proof.Machine
end

