-- ==== Sys2Proof/Machine/State.lean ====
section
/-! DEFINITION. The state of the core (spec/10_state.md R10 to R28, R32) as plain data, the state after reset, and the
reasons a step can stop. -/

namespace Sys2Proof.Machine

/-- Memory as (address, byte) pairs in one canonical form (`Memory.wf`): addresses below 4096 strictly rising, and no entry equal
to what an unlisted address reads as, its contents after reset (R18, log 6). -/
abbrev Memory := List Host.Cell

/-- The display buffer of R20: 32 rows (row 0 on top) of 64 columns (column 0 leftmost), true for on. -/
abbrev Display := Vector (Vector Bool 64) 32

/-- The errors a step can raise (spec/60_exceptions.md R160 to R164). -/
inductive Cause where
  | outOfBoundsFetch
  | unknownOpcode
  | stackOverflow
  | stackUnderflow
  deriving DecidableEq, Repr

/-- The five events of spec/40_instruction_cycle.md R80. The byte `step` draws is the free value `Config.rnd` (log 2). -/
inductive Event where
  | reset
  | load (rom : List Byte)
  | step
  | tick
  | setKeys (k : Word)
  deriving DecidableEq, Repr

/-- Reasons a step stops the model. The five errors of the spec are NOT here: a fault entry is a next state (R168, log 5). -/
inductive Fault where
  /-- Raised by 00EE and 2NNN when SP is above 16, where the spec has no stack entry to read or write (R15, R31). No history
  from reset reaches it. Safe: the model stops where the spec is silent (log 4). -/
  | stackPointerOutOfRange
  deriving DecidableEq, Repr

/-- Instructions without a meaning. -/
inductive Refusal where
  /-- Raised by `exec` for an instruction that has no meaning yet; no arm does so now. Safe. -/
  | notModelled (mnemonic : String)
  deriving DecidableEq, Repr

/-- Everything spec/10_state.md gives the machine, and three fields of the model's own at the end. -/
structure State where
  /-- `V[0]` to `V[15]` (R10); `V[15]` is VF (R12). -/
  v         : Vector Byte 16
  /-- `PC` (R13). -/
  pc        : Word
  /-- `I` (R14). -/
  idx       : Word
  /-- `SP`, the number of return addresses on the stack (R15). -/
  sp        : BitVec 8
  /-- `stack[0]` to `stack[15]` (R16). -/
  stack     : Vector Word 16
  /-- `mem` (R17). -/
  mem       : Memory
  /-- `fb` (R20). -/
  fb        : Display
  /-- `keys`, bit k for key k, 1 for down (R21). -/
  keys      : Word
  /-- `DT` (R22). -/
  dt        : Byte
  /-- `ST` (R23). -/
  st        : Byte
  /-- `waiting` (R24). -/
  waiting   : Bool
  /-- `wait_x` (R25). -/
  waitX     : Reg
  /-- `halted` (R26). -/
  halted    : Bool
  /-- `err_code` (R26, R161). -/
  errCode   : BitVec 3
  /-- `err_opcode` (R26). -/
  errOpcode : Word
  /-- `err_pc` (R26). -/
  errPc     : Word
  /-- `load_err` (R27). -/
  loadErr   : Bool
  /-- MODEL'S OWN: the configuration of R4, fixed for the machine (log 1). -/
  params    : Params
  /-- MODEL'S OWN: how many random bytes CXNN has drawn (log 2). -/
  draws     : Nat
  /-- MODEL'S OWN: the host's events not yet applied, the next one first; when there is none the next event is `step`
  (log 3). -/
  schedule  : List Event
  deriving DecidableEq, Repr

/-- The state after the `reset` event (R32, R191), with the default parameters, nothing drawn and no event waiting. -/
def State.reset : State where
  v         := Vector.replicate 16 0
  pc        := 0x200
  idx       := 0
  sp        := 0
  stack     := Vector.replicate 16 0
  mem       := []
  fb        := Vector.replicate 32 (Vector.replicate 64 false)
  keys      := 0
  dt        := 0
  st        := 0
  waiting   := false
  waitX     := 0
  halted    := false
  errCode   := 0
  errOpcode := 0
  errPc     := 0
  loadErr   := false
  params    := defaultParams
  draws     := 0
  schedule  := []

end Sys2Proof.Machine
end

