-- ==== Sys2Proof/Machine/Ops.lean ====
section
/-! DEFINITION. The named operations over memory, registers, stack, display and latches, and fault entry. Every meaning
is written over these. -/

namespace Sys2Proof.Machine

/-- What an instruction, an event or a step answers. -/
abbrev Result := Host.Outcome State Fault Refusal

/-! ### Memory (spec/20_memory.md) -/

/-- R18, R41: the byte an address holds after reset, which is what an unlisted address reads as (log 6). -/
def resetByte (font : Vector Byte 80) (a : Nat) : Byte :=
  if h : 0x050 ≤ a ∧ a < 0x0A0 then font[a - 0x050]'(by omega) else 0

/-- The byte listed for an address. -/
def Memory.find : Memory → Nat → Option Byte
  | [], _ => none
  | (b, v) :: m, a => if b = a then some v else Memory.find m a

/-- The byte at an address. -/
def Memory.read (font : Vector Byte 80) (m : Memory) (a : Nat) : Byte :=
  (Memory.find m a).getD (resetByte font a)

/-- List a byte for an address, in address order, replacing what was listed. -/
def Memory.insert (a : Nat) (v : Byte) : Memory → Memory
  | [] => [(a, v)]
  | (b, w) :: m =>
    if a < b then (a, v) :: (b, w) :: m
    else if a = b then (a, v) :: m
    else (b, w) :: Memory.insert a v m

/-- List nothing for an address. -/
def Memory.erase (a : Nat) : Memory → Memory
  | [] => []
  | (b, w) :: m => if b = a then Memory.erase a m else (b, w) :: Memory.erase a m

/-- Write a byte, keeping the canonical form: a byte equal to the reset contents is not listed. -/
def Memory.write (font : Vector Byte 80) (m : Memory) (a : Nat) (v : Byte) : Memory :=
  if v = resetByte font a then Memory.erase a m else Memory.insert a v m

/-- All addresses of a list lie above a bound. -/
def Memory.above (lo : Nat) (m : Memory) : Bool := m.all fun c => lo < c.1

/-- Addresses strictly rise. -/
def Memory.rising : Memory → Bool
  | [] => true
  | (a, _) :: m => Memory.above a m && Memory.rising m

/-- The canonical form of memory: addresses inside R41's map strictly rising, no entry equal to the reset contents. -/
def Memory.wf (font : Vector Byte 80) (m : Memory) : Bool :=
  Memory.rising m && m.all fun c => decide (c.1 < 4096) && c.2 != resetByte font c.1

/-- `MemRead(a, 1)` at an address already formed. -/
def State.readByte (s : State) (a : Nat) : Byte := Memory.read s.params.fontTable s.mem a

/-- `MemWrite(a, 1, b)` at an address already formed. -/
def State.writeByte (s : State) (a : Nat) (b : Byte) : State :=
  { s with mem := Memory.write s.params.fontTable s.mem a b }

/-! ### General registers (R10) -/

/-- `V[x]`. -/
def State.reg (s : State) (x : Reg) : Byte := s.v[x.toNat]'x.isLt

/-- `V[x] <- b`. -/
def State.setReg (s : State) (x : Reg) (b : Byte) : State :=
  { s with v := s.v.set x.toNat b x.isLt }

/-- VF, general register 15 (R12). -/
def vf : Reg := 0xF

/-! ### PC, I, timers -/

/-- `PC <- a`. -/
def State.setPc (s : State) (a : Word) : State := { s with pc := a }

/-- R85: the default advance, `PC <- PC + 2`. -/
def State.advance (s : State) : State := s.setPc (s.pc + 2)

/-- `I <- a`. -/
def State.setIdx (s : State) (a : Word) : State := { s with idx := a }

/-- `DT <- b`. -/
def State.setDt (s : State) (b : Byte) : State := { s with dt := b }

/-- `ST <- b`. -/
def State.setSt (s : State) (b : Byte) : State := { s with st := b }

/-- A CXNN draw is used up. -/
def State.drawn (s : State) : State := { s with draws := s.draws + 1 }

/-! ### Fault entry (R168) -/

/-- R161: the code of a cause. -/
def Cause.code : Cause → BitVec 3
  | .outOfBoundsFetch => 2
  | .unknownOpcode => 3
  | .stackOverflow => 4
  | .stackUnderflow => 5

/-- R168, the machine's only trap mechanism: the four latches are written and nothing else changes. There is no return
beside it: only the `reset` event leaves the halted state (R169). -/
def State.raise (s : State) (c : Cause) (opcode : Word) : State :=
  { s with halted := true, errCode := c.code, errPc := s.pc, errOpcode := opcode }

/-! ### Call stack (R15, R16) -/

/-- 2NNN: `stack[SP] <- a ; SP <- SP + 1`, or StackOverflowError when SP = 16, before any write. Above 16 there is no entry
to write and the model stops (log 4). -/
def State.push (s : State) (a : Word) (opcode : Word) (k : State → Result) : Result :=
  if h : s.sp.toNat < 16 then k { s with stack := s.stack.set s.sp.toNat a h, sp := s.sp + 1 }
  else if s.sp = 16 then .next (s.raise .stackOverflow opcode)
  else .fault .stackPointerOutOfRange

/-- 00EE: `SP <- SP - 1`, and the entry there, which is not cleared, or StackUnderflowError when SP = 0, before any write.
Above 16 there is no entry to read and the model stops (log 4). -/
def State.pop (s : State) (opcode : Word) (k : Word → State → Result) : Result :=
  if s.sp = 0 then .next (s.raise .stackUnderflow opcode)
  else if h : s.sp.toNat - 1 < 16 then k (s.stack[s.sp.toNat - 1]'h) { s with sp := s.sp - 1 }
  else .fault .stackPointerOutOfRange

/-! ### Display buffer (R20) -/

/-- `fb[y][x]`. -/
def Display.pixel (d : Display) (x : Fin 64) (y : Fin 32) : Bool := (d[y.val]'y.isLt)[x.val]'x.isLt

/-- `fb[y][x] <- fb[y][x] ^ 1`. -/
def Display.flip (d : Display) (x : Fin 64) (y : Fin 32) : Display :=
  d.set y.val ((d[y.val]'y.isLt).set x.val (!Display.pixel d x y) x.isLt) y.isLt

/-- All 2048 pixels off. -/
def Display.clear : Display := Vector.replicate 32 (Vector.replicate 64 false)

/-- The display buffer replaced. -/
def State.setFb (s : State) (d : Display) : State := { s with fb := d }

/-! ### Key wait (R155) -/

/-- FX0A at execution: `waiting <- 1 ; wait_x <- x`. -/
def State.awaitKey (s : State) (x : Reg) : State := { s with waiting := true, waitX := x }

end Sys2Proof.Machine
end

