-- ==== Sys2Proof/Machine/Operands.lean ====
section
/-! DEFINITION. Every operand form of the instruction rules: registers, zero-extended immediates, the low nibble of a register,
the shift source, and the one addressing mode, register-indirect through `I` with an ascending byte offset. -/

namespace Sys2Proof.Machine

/-- R63: `nnn` zero-extended to 16 bits. -/
def addrWord (nnn : Addr) : Word := nnn.setWidth 16

/-- A byte zero-extended to 16 bits (R6). -/
def byteWord (b : Byte) : Word := b.setWidth 16

/-- `b & 0x0F`: the low nibble selects a key (R153, R154) or a glyph (R132). -/
def lowNibble (b : Byte) : BitVec 4 := b.extractLsb' 0 4

/-- R119: the register a shift reads, `x` or `y` by SHIFT_SRC. -/
def State.shiftReg (s : State) (x y : Reg) : Reg :=
  match s.params.shiftSrc with
  | .vx => x
  | .vy => y

/-- R42: the address of byte `k` of a data access, `(I + k) & 0xFFF`, the sum taken before masking. -/
def dataAddr (base : Word) (k : Nat) : Nat := (base.toNat + k) % 4096

/-- R46: bytes stored in ascending order from offset `k` on. -/
def State.storeBytes (s : State) (base : Word) : Nat → List Byte → State
  | _, [] => s
  | k, b :: bs => State.storeBytes (s.writeByte (dataAddr base k) b) base (k + 1) bs

/-- The first `n` general registers, in order (FX55). -/
def State.firstRegs (s : State) (n : Nat) : List Byte :=
  (List.range n).map fun i => s.reg (BitVec.ofNat 4 i)

/-- FX65: the first `n` general registers loaded in ascending order from `base` on. -/
def State.loadRegs (s : State) (base : Word) : Nat → State
  | 0 => s
  | n + 1 =>
    let t := State.loadRegs s base n
    t.setReg (BitVec.ofNat 4 n) (t.readByte (dataAddr base n))

/-- R134, R135: `I` after FX55 and FX65, by LDST_I_MODE. -/
def State.indexAfter (s : State) (x : Reg) : Word :=
  match s.params.ldstIMode with
  | .unchanged => s.idx
  | .incXPlus1 => s.idx + x.setWidth 16 + 1
  | .incX => s.idx + x.setWidth 16

/-- R153: the latch of a key, true for down. -/
def State.keyDown (s : State) (k : BitVec 4) : Bool := s.keys.getLsbD k.toNat

end Sys2Proof.Machine
end

