-- ==== Sys2Proof/Machine/Flags.lean ====
section
/-! DEFINITION. Every flag computation the spec gives: carry, not borrow, the bit shifted out (spec/42_alu.md R110, R117 to
R121), and the order in which flag and destination are written. The collision flag is computed with the draw. -/

namespace Sys2Proof.Machine

/-- A flag as VF holds it. -/
def flagByte (b : Bool) : Byte := if b then 1 else 0

/-- R110, R117: carry, the exact sum exceeds 255. -/
def carryFlag (a b : Byte) : Bool := decide (255 < a.toNat + b.toNat)

/-- R110, R118: not borrow, the minuend is at least the subtrahend. -/
def noBorrowFlag (minuend subtrahend : Byte) : Bool := decide (subtrahend.toNat ≤ minuend.toNat)

/-- R119: the bit shifted out to the right. -/
def lowBit (a : Byte) : Byte := a &&& 1

/-- R121: the bit shifted out to the left. -/
def highBit (a : Byte) : Byte := (a >>> 7) &&& 1

/-- R110: the destination is written, then the flag, so the flag survives when `x` is 15. -/
def State.writeThenFlag (s : State) (x : Reg) (result : Byte) (flag : Bool) : State :=
  (s.setReg x result).setReg vf (flagByte flag)

/-- R119, R121: a shift with its flag, in the order SHIFT_VF_ORDER gives. Under flag_first the source is read again after the
write of VF. -/
def State.shiftWithFlag (s : State) (x src : Reg) (shift out : Byte → Byte) : State :=
  match s.params.shiftVfOrder with
  | .flagFirst =>
    let t := s.setReg vf (out (s.reg src))
    t.setReg x (shift (t.reg src))
  | .flagLast => (s.setReg x (shift (s.reg src))).setReg vf (out (s.reg src))

end Sys2Proof.Machine
end

