-- ==== Sys2Proof/Machine/Alu.lean ====
section
/-! DEFINITION. The meanings of spec/42_alu.md: load, arithmetic, logic, shift. Every one ends with `PC <- PC + 2`. -/

namespace Sys2Proof.Machine

/-- R111, 6XNN. -/
def execLdByte (x : Reg) (nn : Byte) (s : State) : Result := .next (s.setReg x nn).advance

/-- R112, 7XNN: no flag. -/
def execAddByte (x : Reg) (nn : Byte) (s : State) : Result := .next (s.setReg x (s.reg x + nn)).advance

/-- R113, 8XY0. -/
def execLdReg (x y : Reg) (s : State) : Result := .next (s.setReg x (s.reg y)).advance

/-- R114, 8XY1: no flag. -/
def execOrReg (x y : Reg) (s : State) : Result := .next (s.setReg x (s.reg x ||| s.reg y)).advance

/-- R115, 8XY2: no flag. -/
def execAndReg (x y : Reg) (s : State) : Result := .next (s.setReg x (s.reg x &&& s.reg y)).advance

/-- R116, 8XY3: no flag. -/
def execXorReg (x y : Reg) (s : State) : Result := .next (s.setReg x (s.reg x ^^^ s.reg y)).advance

/-- R117, 8XY4: VF is the carry, written after the destination. -/
def execAddReg (x y : Reg) (s : State) : Result :=
  .next (s.writeThenFlag x (s.reg x + s.reg y) (carryFlag (s.reg x) (s.reg y))).advance

/-- R118, 8XY5: VF is not borrow, `V[x]` the minuend. -/
def execSubReg (x y : Reg) (s : State) : Result :=
  .next (s.writeThenFlag x (s.reg x - s.reg y) (noBorrowFlag (s.reg x) (s.reg y))).advance

/-- R120, 8XY7: VF is not borrow, `V[y]` the minuend. -/
def execSubn (x y : Reg) (s : State) : Result :=
  .next (s.writeThenFlag x (s.reg y - s.reg x) (noBorrowFlag (s.reg y) (s.reg x))).advance

/-- R119, 8XY6: VF is bit 0 of the source. -/
def execShr (x y : Reg) (s : State) : Result :=
  .next (s.shiftWithFlag x (s.shiftReg x y) (fun a => a >>> 1) lowBit).advance

/-- R121, 8XYE: VF is bit 7 of the source. -/
def execShl (x y : Reg) (s : State) : Result :=
  .next (s.shiftWithFlag x (s.shiftReg x y) (fun a => a <<< 1) highBit).advance

end Sys2Proof.Machine
end

