-- ==== Sys2Proof/Machine/ControlFlow.lean ====
section
/-! DEFINITION. The meanings of spec/41_control_flow.md: return, jumps, call, register-compare skips. -/

namespace Sys2Proof.Machine

/-- R108: `PC <- pc + 4` when the condition holds, else `pc + 2`, and nothing else. -/
def State.skipIf (s : State) (c : Bool) : State := s.setPc (if c then s.pc + 4 else s.pc + 2)

/-- R100, 00EE. The popped value is used as is. -/
def execRet (s : State) : Result := s.pop (encode .ret) fun a t => .next (t.setPc a)

/-- R101, 1NNN. -/
def execJpAddr (nnn : Addr) (s : State) : Result := .next (s.setPc (addrWord nnn))

/-- R102, 2NNN. The address of the next instruction is pushed. -/
def execCallAddr (nnn : Addr) (s : State) : Result :=
  s.push (s.pc + 2) (encode (.callAddr nnn)) fun t => .next (t.setPc (addrWord nnn))

/-- R103, BNNN: a 16-bit sum, not masked. -/
def execJpV0 (nnn : Addr) (s : State) : Result := .next (s.setPc (addrWord nnn + byteWord (s.reg 0)))

/-- R104, 3XNN. -/
def execSeByte (x : Reg) (nn : Byte) (s : State) : Result := .next (s.skipIf (s.reg x == nn))

/-- R105, 4XNN. -/
def execSneByte (x : Reg) (nn : Byte) (s : State) : Result := .next (s.skipIf (s.reg x != nn))

/-- R106, 5XY0. -/
def execSeReg (x y : Reg) (s : State) : Result := .next (s.skipIf (s.reg x == s.reg y))

/-- R107, 9XY0. -/
def execSneReg (x y : Reg) (s : State) : Result := .next (s.skipIf (s.reg x != s.reg y))

end Sys2Proof.Machine
end

