-- ==== Sys2Proof/Machine/Drawing.lean ====
section
/-! DEFINITION. The meanings of spec/44_display.md: clear screen and sprite draw. A draw carries the display and the
collision flag `hit` through the loops of R141. -/

namespace Sys2Proof.Machine

/-- One sprite bit at a pixel: a 1 bit notes a collision with a pixel that is on, then flips it. -/
def drawBit (px : Fin 64) (py : Fin 32) (on : Bool) (dh : Display × Bool) : Display × Bool :=
  if on then (Display.flip dh.1 px py, dh.2 || Display.pixel dh.1 px py) else dh

/-- The first `c` columns of a sprite row: bit 7 is leftmost, columns wrap pixel by pixel. -/
def drawCols (b : Byte) (x0 : Nat) (py : Fin 32) : Nat → Display × Bool → Display × Bool
  | 0, dh => dh
  | c + 1, dh => drawBit (Fin.ofNat 64 (x0 + c)) py (b.getLsbD (7 - c)) (drawCols b x0 py c dh)

/-- The first `r` rows of a sprite: row `r` is the byte at `(I + r) & 0xFFF`, rows wrap to the top. -/
def State.drawRows (s : State) (x0 y0 : Nat) : Nat → Display × Bool → Display × Bool
  | 0, dh => dh
  | r + 1, dh =>
    drawCols (s.readByte (dataAddr s.idx r)) x0 (Fin.ofNat 32 (y0 + r)) 8 (State.drawRows s x0 y0 r dh)

/-- R141: the display and the collision flag after drawing `n` rows at `(V[x] mod 64, V[y] mod 32)`. -/
def State.drawSprite (s : State) (x y : Reg) (n : Nat) : Display × Bool :=
  s.drawRows ((s.reg x).toNat % 64) ((s.reg y).toNat % 32) n (s.fb, false)

/-- R140, 00E0. -/
def execCls (s : State) : Result := .next (s.setFb Display.clear).advance

/-- R141, DXYN: VF is always written, last. -/
def execDrw (x y : Reg) (n : Nat) (s : State) : Result :=
  let dh := s.drawSprite x y n
  .next ((s.setFb dh.1).setReg vf (flagByte dh.2)).advance

end Sys2Proof.Machine
end

