-- ==== Sys2Proof/Machine/IndexMemory.lean ====
section
/-! DEFINITION. The meanings of spec/43_index_memory.md: the index register, BCD store, register store and load. -/

namespace Sys2Proof.Machine

/-- R132: the address of the glyph of a digit, `0x050 + 5 * d`. -/
def glyphAddr (d : BitVec 4) : Word := 0x050 + 5 * d.setWidth 16

/-- R133: hundreds, tens and ones of a byte, each a whole byte. -/
def bcdDigits (b : Byte) : List Byte :=
  [BitVec.ofNat 8 (b.toNat / 100), BitVec.ofNat 8 (b.toNat / 10 % 10), BitVec.ofNat 8 (b.toNat % 10)]

/-- R130, ANNN. -/
def execLdI (nnn : Addr) (s : State) : Result := .next (s.setIdx (addrWord nnn)).advance

/-- R131, FX1E: modulo 65536, not masked to 12 bits, no flag. -/
def execAddI (x : Reg) (s : State) : Result := .next (s.setIdx (s.idx + byteWord (s.reg x))).advance

/-- R132, FX29: the low nibble of `V[x]` selects the glyph. -/
def execLdF (x : Reg) (s : State) : Result := .next (s.setIdx (glyphAddr (lowNibble (s.reg x)))).advance

/-- R133, FX33: `I` unchanged. -/
def execLdB (x : Reg) (s : State) : Result := .next (s.storeBytes s.idx 0 (bcdDigits (s.reg x))).advance

/-- R134, FX55: `V0` to `V[x]` stored from `I` on. -/
def execLdMemVx (x : Reg) (s : State) : Result :=
  .next ((s.storeBytes s.idx 0 (s.firstRegs (x.toNat + 1))).setIdx (s.indexAfter x)).advance

/-- R135, FX65: `V0` to `V[x]` loaded from `I` on. -/
def execLdVxMem (x : Reg) (s : State) : Result :=
  .next ((s.loadRegs s.idx (x.toNat + 1)).setIdx (s.indexAfter x)).advance

end Sys2Proof.Machine
end

