-- ==== Sys2Proof/Machine/TimersKeysRandom.lean ====
section
/-! DEFINITION. The meanings of spec/45_timers_keys_random.md: timers, key test, key wait, random number. -/

namespace Sys2Proof.Machine

/-- R150, FX07. -/
def execLdVxDt (x : Reg) (s : State) : Result := .next (s.setReg x s.dt).advance

/-- R151, FX15. -/
def execLdDtVx (x : Reg) (s : State) : Result := .next (s.setDt (s.reg x)).advance

/-- R152, FX18. -/
def execLdStVx (x : Reg) (s : State) : Result := .next (s.setSt (s.reg x)).advance

/-- R153, EX9E: the low nibble of `V[x]` selects the key. -/
def execSkp (x : Reg) (s : State) : Result := .next (s.skipIf (s.keyDown (lowNibble (s.reg x))))

/-- R154, EXA1. -/
def execSknp (x : Reg) (s : State) : Result := .next (s.skipIf (!s.keyDown (lowNibble (s.reg x))))

/-- R155, FX0A at execution: PC is not advanced and no register is written; the `set_keys` event completes it. -/
def execLdVxK (x : Reg) (s : State) : Result := .next (s.awaitKey x)

/-- R156, CXNN: the byte drawn for this execution, masked (log 2). -/
def execRnd (x : Reg) (nn : Byte) (s : State) : Result :=
  .next ((s.setReg x (Config.rnd s.draws &&& nn)).drawn).advance

end Sys2Proof.Machine
end

