-- ==== Sys2Proof/Machine/Events.lean ====
section
/-! DEFINITION. The five events of spec/40_instruction_cycle.md R80: the instruction cycle, reset, load, tick, set_keys, and
which event comes next. -/

namespace Sys2Proof.Machine

/-! ### The step event (R82) -/

/-- R83: the opcode at PC, big-endian, or nothing when PC exceeds 0xFFE: fetch is bounded, not masked (R43). -/
def fetch (s : State) : Option Word :=
  if s.pc.toNat ≤ 0xFFE then some (joinBytes (s.readByte s.pc.toNat) (s.readByte (s.pc.toNat + 1))) else none

/-- R82, R88, R167: the step event. While halted or waiting it changes nothing; the fetch bound is checked first, then
decode, then the instruction runs. -/
def cycle (s : State) : Result :=
  if s.halted then .next s
  else if s.waiting then .next s
  else
    match fetch s with
    | none => .next (s.raise .outOfBoundsFetch 0)
    | some w =>
      match decode w with
      | .ok i => exec i s
      | .error _ => .next (s.raise .unknownOpcode w)

/-! ### The host's other events -/

/-- R191: every piece of the spec's state to its reset value, whatever the state before. The configuration, the draws used up and
the events still to come are no state of the core and stay (log 7). -/
def State.resetEvent (s : State) : State :=
  { State.reset with params := s.params, draws := s.draws, schedule := s.schedule }

/-- R194, R195, R196: a ROM of at most 3584 bytes is copied to 0x200 and PC, SP, V, waiting, load_err are set; a longer
one sets load_err and changes nothing else. -/
def State.load (s : State) (rom : List Byte) : State :=
  if 3584 < rom.length then { s with loadErr := true }
  else
    { s.storeBytes 0x200 0 rom with
      pc := 0x200, sp := 0, v := Vector.replicate 16 0, waiting := false, loadErr := false }

/-- R173: a timer above zero goes down by one. -/
def countDown (b : Byte) : Byte := if b = 0 then 0 else b - 1

/-- R173, R174: both timers, in every run state. -/
def State.tick (s : State) : State := (s.setDt (countDown s.dt)).setSt (countDown s.st)

/-- The least key number from `k` on with a bit in `p`, looking at `fuel` keys. -/
def leastKeyFrom (p : Word) (k : Nat) : Nat → Nat
  | 0 => k
  | fuel + 1 => if p.getLsbD k then k else leastKeyFrom p (k + 1) fuel

/-- R178: the least `i` in 0..15 with `pressed[i] = 1`. -/
def leastKey (p : Word) : Nat := leastKeyFrom p 0 15

/-- R178: the key-wait completion, before `keys` is replaced: a key up in the latch and down in `k`. -/
def State.completeWait (s : State) (k : Word) : State :=
  let pressed := k &&& ~~~s.keys
  if s.waiting && pressed != 0 then
    { (s.setReg s.waitX (BitVec.ofNat 8 (leastKey pressed))).advance with waiting := false }
  else s

/-- R177: the completion, then the whole latch is replaced. -/
def State.setKeys (s : State) (k : Word) : State := { s.completeWait k with keys := k }

/-- R80: one event takes the whole state to a whole state. -/
def applyEvent (e : Event) (s : State) : Result :=
  match e with
  | .reset => .next s.resetEvent
  | .load rom => .next (s.load rom)
  | .step => cycle s
  | .tick => .next s.tick
  | .setKeys k => .next (s.setKeys k)

/-- R81: the next event of the history, the head of the schedule; with none waiting it is a step (log 3). -/
def nextEvent (s : State) : Result :=
  match s.schedule with
  | [] => cycle s
  | e :: rest => applyEvent e { s with schedule := rest }

/-! ### Port level (R91) -/

/-- The strobes high at one clock edge. -/
structure Strobes where
  rst    : Bool
  load   : Option (List Byte)
  keys   : Option Word
  stepEn : Bool
  tick60 : Bool
  deriving DecidableEq, Repr

/-- R91: the events of one edge, in the fixed order rst, load_we, key_we, step_en, tick60; rst suppresses the others. -/
def Strobes.events (p : Strobes) : List Event :=
  if p.rst then [.reset]
  else
    (p.load.map Event.load).toList ++ (p.keys.map Event.setKeys).toList ++
      (if p.stepEn then [.step] else []) ++ (if p.tick60 then [.tick] else [])

/-! ### Placing one instruction for the next step -/

/-- The address the next step can fetch a whole instruction from. -/
def fetchablePc (s : State) : Word := if s.pc.toNat ≤ 0xFFE then s.pc else 0x200

/-- A table word stored big-endian where the next step fetches it, with nothing in that step's way: not halted, not
waiting, no event before it (log 10). -/
def placeWord (s : State) (nbits w : Nat) : State :=
  let pc := fetchablePc s
  let t := { s with pc := pc, halted := false, waiting := false, schedule := [] }
  (t.writeByte pc.toNat (highByte (tableWord nbits w))).writeByte (pc.toNat + 1) (lowByte (tableWord nbits w))

end Sys2Proof.Machine
end

