-- ==== Sys2Proof/Machine/Step.lean ====
section
/-! DEFINITION. One step of the machine, one event of the host's history, and the host's way to place an instruction. -/

namespace Sys2Proof.Machine

/-- One event: the head of the schedule, or a `step` event when the schedule is empty (R80, R81, log 3). -/
def step (s : State) : Host.Outcome State Fault Refusal := nextEvent s

/-- `s` with a table word stored where the next step fetches its instruction (log 10). -/
def State.withFetchWord (s : State) (nbits w : Nat) : State := placeWord s nbits w

end Sys2Proof.Machine
end

