-- ==== Sys2Proof/Machine/Outputs.lean ====
section
/-! DEFINITION. The outputs the core drives, each a pure function of the state (spec/10_state.md R29). The latches `waiting`,
`halted`, `err_code`, `err_opcode`, `err_pc`, `load_err` are driven out as they stand in State. -/

namespace Sys2Proof.Machine

/-- R29, R180: the buzzer sounds while ST is nonzero. -/
def State.buzzer (s : State) : Bool := s.st != 0

/-- The first `k` bits of the packed display. -/
def packBits (d : Display) : Nat → BitVec 2048
  | 0 => 0
  | k + 1 =>
    if Display.pixel d (Fin.ofNat 64 k) (Fin.ofNat 32 (k / 64)) then packBits d k ||| BitVec.twoPow 2048 k
    else packBits d k

/-- R29, D29: bit `64*y + x` of the 2048-bit output is `fb[y][x]`. -/
def State.fbOut (s : State) : BitVec 2048 := packBits s.fb 2048

end Sys2Proof.Machine
end

