-- ==== Sys2Proof/Safety.lean ====
section
/-! DEFINITION. The terms claims use: which parts of the state are unchanged, the invariant of every history, the histories
themselves, and the end of a run. -/

namespace Sys2Proof.Machine

/-! ### What is unchanged -/

/-- The parts of the core's state besides PC and the configuration. -/
inductive Part where
  | regs
  | index
  | stack
  | memory
  | display
  | keys
  | delayTimer
  | soundTimer
  | waitLatches
  | errLatches
  | loadErr
  | draws
  deriving DecidableEq, Repr

/-- A part of the state reads the same in both states. Memory is compared byte by byte, at every address. -/
def SamePart (s t : State) : Part → Prop
  | .regs => ∀ r : Reg, t.reg r = s.reg r
  | .index => t.idx = s.idx
  | .stack => t.sp = s.sp ∧ t.stack = s.stack
  | .memory => ∀ a : Nat, t.readByte a = s.readByte a
  | .display => t.fb = s.fb
  | .keys => t.keys = s.keys
  | .delayTimer => t.dt = s.dt
  | .soundTimer => t.st = s.st
  | .waitLatches => t.waiting = s.waiting ∧ t.waitX = s.waitX
  | .errLatches =>
    t.halted = s.halted ∧ t.errCode = s.errCode ∧ t.errOpcode = s.errOpcode ∧ t.errPc = s.errPc
  | .loadErr => t.loadErr = s.loadErr
  | .draws => t.draws = s.draws

/-- Every part outside the list, the configuration and the events still to come are unchanged; PC may change. -/
def KeepsAllBut (changed : List Part) (s t : State) : Prop :=
  t.params = s.params ∧ t.schedule = s.schedule ∧ ∀ p : Part, p ∉ changed → SamePart s t p

/-- Every general register that is not named is unchanged. -/
def KeepsRegsBut (named : List Reg) (s t : State) : Prop := ∀ r : Reg, r ∉ named → t.reg r = s.reg r

/-! ### Fault entry -/

/-- What R168 says a fault leaves: the four latches, and everything else, PC included, as before. -/
def FaultEntered (s t : State) (code : BitVec 3) (opcode : Word) : Prop :=
  t.halted = true ∧ t.errCode = code ∧ t.errOpcode = opcode ∧ t.errPc = s.pc ∧ t.pc = s.pc ∧
    KeepsAllBut [.errLatches] s t

/-- The core takes its next event as a `step`: none is waiting before it. -/
def StepIsNext (s : State) : Prop := s.schedule = []

/-- The core runs: neither halted nor waiting for a key (R88). -/
def Running (s : State) : Prop := s.halted = false ∧ s.waiting = false

/-! ### What each instruction may write (R11, R12, R86) -/

/-- R11, R12: the general registers an instruction writes, its destination `x`, `V0` to `V[x]` for FX65, and VF for the six
instructions that set a flag. FX0A writes none at execution. -/
def writesReg : Instr → Reg → Bool
  | .ldByte x _, r | .addByte x _, r | .rnd x _, r => r == x
  | .ldReg x _, r | .orReg x _, r | .andReg x _, r | .xorReg x _, r => r == x
  | .addReg x _, r | .subReg x _, r | .shr x _, r | .subn x _, r | .shl x _, r => r == x || r == vf
  | .ldVxDt x, r => r == x
  | .ldVxMem x, r => decide (r.toNat ≤ x.toNat)
  | .drw _ _ _, r => r == vf
  | .cls, _ | .ret, _ | .jpAddr _, _ | .callAddr _, _ | .jpV0 _, _ | .ldI _, _ => false
  | .seByte _ _, _ | .sneByte _ _, _ | .seReg _ _, _ | .sneReg _ _, _ | .skp _, _ | .sknp _, _ => false
  | .ldVxK _, _ | .ldDtVx _, _ | .ldStVx _, _ | .addI _, _ | .ldF _, _ | .ldB _, _ | .ldMemVx _, _ => false

/-- The parts of the state an instruction may write, its fault entry included (R14, R15, R20 to R24, R26, R28, R40). -/
def writesPart : Instr → List Part
  | .cls => [.display]
  | .ret | .callAddr _ => [.stack, .errLatches]
  | .jpAddr _ | .jpV0 _ => []
  | .seByte _ _ | .sneByte _ _ | .seReg _ _ | .sneReg _ _ | .skp _ | .sknp _ => []
  | .ldByte _ _ | .addByte _ _ | .ldReg _ _ | .orReg _ _ | .andReg _ _ | .xorReg _ _ => [.regs]
  | .addReg _ _ | .subReg _ _ | .shr _ _ | .subn _ _ | .shl _ _ | .ldVxDt _ => [.regs]
  | .rnd _ _ => [.regs, .draws]
  | .drw _ _ _ => [.regs, .display]
  | .ldI _ | .addI _ | .ldF _ => [.index]
  | .ldB _ => [.memory]
  | .ldMemVx _ => [.memory, .index]
  | .ldVxMem _ => [.regs, .index]
  | .ldDtVx _ => [.delayTimer]
  | .ldStVx _ => [.soundTimer]
  | .ldVxK _ => [.waitLatches]

/-- R86: the instructions that set PC themselves, and FX0A, which leaves it. -/
def setsPc : Instr → Bool
  | .ret | .jpAddr _ | .callAddr _ | .jpV0 _ => true
  | .seByte _ _ | .sneByte _ _ | .seReg _ _ | .sneReg _ _ | .skp _ | .sknp _ => true
  | .ldVxK _ => true
  | .cls | .ldByte _ _ | .addByte _ _ | .ldReg _ _ | .orReg _ _ | .andReg _ _ | .xorReg _ _ => false
  | .addReg _ _ | .subReg _ _ | .shr _ _ | .subn _ _ | .shl _ _ | .ldI _ | .rnd _ _ | .drw _ _ _ => false
  | .ldVxDt _ | .ldDtVx _ | .ldStVx _ | .addI _ | .ldF _ | .ldB _ | .ldMemVx _ | .ldVxMem _ => false

/-! ### The sprite as a picture (R142) -/

/-- R142: `S(px, py)`, the sprite bit that falls on a pixel, `b_r[7 - c]` with `c = (px - x0) mod 64`,
`r = (py - y0) mod 32` when `c <= 7` and `r <= n - 1`, else 0. -/
def spriteBit (s : State) (x y : Reg) (n : Nat) (px : Fin 64) (py : Fin 32) : Bool :=
  let c := (px.val + 64 - (s.reg x).toNat % 64) % 64
  let r := (py.val + 32 - (s.reg y).toNat % 32) % 32
  decide (c ≤ 7) && decide (r < n) && (s.readByte (dataAddr s.idx r)).getLsbD (7 - c)

/-! ### The invariant of every history (R26, R31, R161) -/

/-- Holds at reset and is kept by every event. -/
structure State.Inv (s : State) : Prop where
  /-- Memory keeps its canonical form (the model's own, log 6). -/
  memory_canonical : Memory.wf s.params.fontTable s.mem = true
  /-- R31: `0 <= SP <= 16`. -/
  sp_in_bounds : s.sp.toNat ≤ 16
  /-- R31: `PC <= 0x10FE`. -/
  pc_in_bounds : s.pc.toNat ≤ 0x10FE
  /-- R100: the largest value that can be popped is 0x1000. -/
  stack_in_bounds : ∀ k : Fin 16, (s.stack[k]).toNat ≤ 0x1000
  /-- R25: PC still stands on the FX0A while it waits. -/
  waits_on_fetched_pc : s.waiting = true → s.pc.toNat ≤ 0xFFE
  /-- R31, R161: `err_code` is 0, or 2 to 5. -/
  err_code_legal : s.errCode = 0 ∨ (2 ≤ s.errCode.toNat ∧ s.errCode.toNat ≤ 5)
  /-- R31: `halted = 1` exactly when `err_code != 0`. -/
  halted_iff_error : s.halted = true ↔ s.errCode ≠ 0
  /-- R26: `halted = 1` and `waiting = 1` never hold together. -/
  not_halted_and_waiting : ¬(s.halted = true ∧ s.waiting = true)
  /-- R161: with no error the recorded opcode and PC are 0. -/
  no_error_no_record : s.errCode = 0 → s.errOpcode = 0 ∧ s.errPc = 0

/-! ### Histories (R81, R190, R198) -/

/-- The initial state of a history: the state after `reset`, under any parameters, with any events to come. -/
def State.start (p : Params) (es : List Event) : State := { State.reset with params := p, schedule := es }

/-- A state some history reaches: `k` events after the initial reset. -/
def Reached (s : State) : Prop := ∃ p es k, Host.Core.run core k (State.start p es) = .next s

/-! ### The end of a run (R92) -/

/-- R92, D26: the idle loop, `PC = a` and the word there encodes `JP a`, not waiting and not halted. -/
def AtIdleLoop (s : State) : Prop :=
  Running s ∧ ∃ nnn : Addr, s.pc = addrWord nnn ∧ fetch s = some (encode (.jpAddr nnn))

end Sys2Proof.Machine
end

