-- ==== Sys2Proof/Certificates/Slice0/Obligations.lean ====
section
/-! DEFINITION. The statements for the provers, each from numbered rules of spec/. `t.pc` and the parts outside the list of
`KeepsAllBut` say what an instruction leaves alone (its frame), and every conclusion of the form "there is t with
exec i s = .next t" says that the instruction completes. `KeepsAllBut` speaks of the model's own fields too: the configuration
(log 1), the draws (log 2) and the schedule (log 3); what it says of those is the model's, the rest is the spec's. -/

open Sys2Proof Sys2Proof.Machine

/-! ### Encoding -/

/-- R60 to R63, R70 (the opcode table is the spec's decision D1): no bit of an encoding is dropped and two bytes are always consumed. -/
def Obligations.DecodeOfEncodeIsTheInstruction : Prop :=
  ∀ i : Instr, WellFormed i = true →
    decode (encode i) = .ok i ∧ ∀ rest, decodeBytes (encodeBytes i ++ rest) = .ok (i, rest)

/-- R64, R70 (table: decision D1): every one of the 16 bits is a fixed bit or an operand bit, so no two words mean the same instruction. -/
def Obligations.EncodeOfDecodeIsTheWord : Prop :=
  ∀ (w : Word) (i : Instr), decode w = .ok i → WellFormed i = true ∧ encode i = w

/-- R64, R70, R71, R72 (table and strictness: decisions D1, D2, D3). -/
def Obligations.DecoderAcceptsExactlyTheTableRows : Prop :=
  ∀ w : Word,
    (∀ r ∈ opcodeRows, r.accepts w = true → ∃ i, decode w = .ok i ∧ rowOf i = r) ∧
    (∀ i, decode w = .ok i → rowOf i ∈ opcodeRows ∧ (rowOf i).accepts w = true) ∧
    ((∀ r ∈ opcodeRows, r.accepts w = false) → decode w = .error (.unknownOpcode w))

/-- R62, R63, R70 (table: decision D1): a sanity check of field positions. -/
def Obligations.SampleWordsDecode : Prop :=
  decode 0x00E0 = .ok .cls ∧ decode 0x2ABC = .ok (.callAddr 0xABC) ∧
  decode 0x3A05 = .ok (.seByte 0xA 0x05) ∧ decode 0x8AB4 = .ok (.addReg 0xA 0xB) ∧
  decode 0xDF01 = .ok (.drw 0xF 0x0 1) ∧ decode 0xE19E = .ok (.skp 0x1) ∧
  decode 0xF10A = .ok (.ldVxK 0x1) ∧ decode 0xFA29 = .ok (.ldF 0xA) ∧
  decode 0xF265 = .ok (.ldVxMem 0x2) ∧ decode 0xC30F = .ok (.rnd 0x3 0x0F)

/-! ### The step -/

/-- R82, R83, R44. The schedule is the model's own field (log 3). -/
def Obligations.StepRunsTheDecodedInstruction : Prop :=
  ∀ (s : State) (i : Instr), Running s → s.pc.toNat ≤ 0xFFE →
    decode (joinBytes (s.readByte s.pc.toNat) (s.readByte (s.pc.toNat + 1))) = .ok i →
    (s.schedule = [] → step s = exec i s) ∧
    (∀ rest, s.schedule = .step :: rest → step s = exec i { s with schedule := rest })

/-- R80, R81. Holding the order of events in State is the model's choice (log 3). -/
def Obligations.ScheduledEventIsApplied : Prop :=
  ∀ (s : State) (rest : List Event),
    (s.schedule = .reset :: rest → step s = .next { s with schedule := rest }.resetEvent) ∧
    (∀ rom, s.schedule = .load rom :: rest → step s = .next ({ s with schedule := rest }.load rom)) ∧
    (s.schedule = .tick :: rest → step s = .next { s with schedule := rest }.tick) ∧
    (∀ k, s.schedule = .setKeys k :: rest → step s = .next ({ s with schedule := rest }.setKeys k)) ∧
    (s.schedule = .step :: rest → step s = cycle { s with schedule := rest }) ∧
    (s.schedule = [] → step s = cycle s)

/-- R43, R83, R160, R168. The latches and the code are the spec's decision D13. -/
def Obligations.FetchBeyondTheTopFaults : Prop :=
  ∀ s : State, StepIsNext s → Running s → 0xFFE < s.pc.toNat →
    ∃ t, step s = .next t ∧ FaultEntered s t 2 0

/-- R71, R84, R162, R168. The latches and the code are the spec's decision D13. -/
def Obligations.UnknownOpcodeFaults : Prop :=
  ∀ (s : State) (w : Word), StepIsNext s → Running s → fetch s = some w →
    (∀ r ∈ opcodeRows, r.accepts w = false) → ∃ t, step s = .next t ∧ FaultEntered s t 3 w

/-- R102, R163, R168. The latches and the code are the spec's decision D13, the stack convention D12. -/
def Obligations.SeventeenthCallFaults : Prop :=
  ∀ (s : State) (w : Word) (nnn : Addr), StepIsNext s → Running s → fetch s = some w →
    decode w = .ok (.callAddr nnn) → s.sp = 16 → ∃ t, step s = .next t ∧ FaultEntered s t 4 w

/-- R100, R164, R168. The latches and the code are the spec's decision D13, the stack convention D12. -/
def Obligations.ReturnWithoutCallFaults : Prop :=
  ∀ s : State, StepIsNext s → Running s → fetch s = some 0x00EE → s.sp = 0 →
    ∃ t, step s = .next t ∧ FaultEntered s t 5 0x00EE

/-- R88 (decisions D14, D15). -/
def Obligations.HaltedOrWaitingStepChangesNothing : Prop :=
  ∀ s : State, StepIsNext s → s.halted = true ∨ s.waiting = true → step s = .next s

/-- R87, R166, R168 (decision D13). -/
def Obligations.AFaultingInstructionWritesOnlyTheLatches : Prop :=
  ∀ (i : Instr) (s t : State), exec i s = .next t → s.halted = false → t.halted = true →
    (i = .ret ∧ s.sp = 0 ∧ FaultEntered s t 5 (encode .ret)) ∨
    (∃ nnn, i = .callAddr nnn ∧ s.sp = 16 ∧ FaultEntered s t 4 (encode (.callAddr nnn)))

/-- R169, R185, R26 (decision D14). -/
def Obligations.OnlyResetLeavesTheHaltedState : Prop :=
  ∀ s t : State, step s = .next t → s.halted = true → s.schedule.head? ≠ some .reset →
    t.halted = true ∧ t.errCode = s.errCode ∧ t.errOpcode = s.errOpcode ∧ t.errPc = s.errPc

/-! ### Register load, arithmetic, logic, shift -/

/-- R111, R113, R150. -/
def Obligations.RegisterLoads : Prop :=
  ∀ (s : State) (x y : Reg) (nn : Byte),
    (∃ t, exec (.ldByte x nn) s = .next t ∧ t.reg x = nn ∧ KeepsRegsBut [x] s t ∧
      t.pc = s.pc + 2 ∧ KeepsAllBut [.regs] s t) ∧
    (∃ t, exec (.ldReg x y) s = .next t ∧ t.reg x = s.reg y ∧ KeepsRegsBut [x] s t ∧
      t.pc = s.pc + 2 ∧ KeepsAllBut [.regs] s t) ∧
    (∃ t, exec (.ldVxDt x) s = .next t ∧ t.reg x = s.dt ∧ KeepsRegsBut [x] s t ∧
      t.pc = s.pc + 2 ∧ KeepsAllBut [.regs] s t)

/-- R112 (that VF is not written is the spec's decision D8). -/
def Obligations.AddImmediateSetsNoFlag : Prop :=
  ∀ (s : State) (x : Reg) (nn : Byte),
    ∃ t, exec (.addByte x nn) s = .next t ∧
      (t.reg x).toNat = ((s.reg x).toNat + nn.toNat) % 256 ∧ KeepsRegsBut [x] s t ∧
      t.pc = s.pc + 2 ∧ KeepsAllBut [.regs] s t

/-- R114, R115, R116 (that VF is not written is the spec's decision D7). -/
def Obligations.LogicalOperationsSetNoFlag : Prop :=
  ∀ (s : State) (x y : Reg),
    (∃ t, exec (.orReg x y) s = .next t ∧
      (∀ k < 8, (t.reg x).getLsbD k = ((s.reg x).getLsbD k || (s.reg y).getLsbD k)) ∧
      KeepsRegsBut [x] s t ∧ t.pc = s.pc + 2 ∧ KeepsAllBut [.regs] s t) ∧
    (∃ t, exec (.andReg x y) s = .next t ∧
      (∀ k < 8, (t.reg x).getLsbD k = ((s.reg x).getLsbD k && (s.reg y).getLsbD k)) ∧
      KeepsRegsBut [x] s t ∧ t.pc = s.pc + 2 ∧ KeepsAllBut [.regs] s t) ∧
    (∃ t, exec (.xorReg x y) s = .next t ∧
      (∀ k < 8, (t.reg x).getLsbD k = ((s.reg x).getLsbD k ^^ (s.reg y).getLsbD k)) ∧
      KeepsRegsBut [x] s t ∧ t.pc = s.pc + 2 ∧ KeepsAllBut [.regs] s t)

/-- R117. -/
def Obligations.AddSetsCarryAfterTheDestination : Prop :=
  ∀ (s : State) (x y : Reg),
    ∃ t, exec (.addReg x y) s = .next t ∧
      t.reg vf = (if 255 < (s.reg x).toNat + (s.reg y).toNat then 1 else 0) ∧
      (x ≠ vf → (t.reg x).toNat = ((s.reg x).toNat + (s.reg y).toNat) % 256) ∧
      KeepsRegsBut [x, vf] s t ∧ t.pc = s.pc + 2 ∧ KeepsAllBut [.regs] s t

/-- R118. -/
def Obligations.SubtractSetsNotBorrow : Prop :=
  ∀ (s : State) (x y : Reg),
    ∃ t, exec (.subReg x y) s = .next t ∧
      t.reg vf = (if (s.reg y).toNat ≤ (s.reg x).toNat then 1 else 0) ∧
      (x ≠ vf → (t.reg x).toNat =
        if (s.reg y).toNat ≤ (s.reg x).toNat then (s.reg x).toNat - (s.reg y).toNat
        else (s.reg x).toNat + 256 - (s.reg y).toNat) ∧
      KeepsRegsBut [x, vf] s t ∧ t.pc = s.pc + 2 ∧ KeepsAllBut [.regs] s t

/-- R120 (that 8XY7 is the reversed subtract is the spec's, from general knowledge). -/
def Obligations.ReversedSubtractSetsNotBorrow : Prop :=
  ∀ (s : State) (x y : Reg),
    ∃ t, exec (.subn x y) s = .next t ∧
      t.reg vf = (if (s.reg x).toNat ≤ (s.reg y).toNat then 1 else 0) ∧
      (x ≠ vf → (t.reg x).toNat =
        if (s.reg x).toNat ≤ (s.reg y).toNat then (s.reg y).toNat - (s.reg x).toNat
        else (s.reg y).toNat + 256 - (s.reg x).toNat) ∧
      KeepsRegsBut [x, vf] s t ∧ t.pc = s.pc + 2 ∧ KeepsAllBut [.regs] s t

/-- R119, for every setting of SHIFT_SRC and SHIFT_VF_ORDER (decisions D4, D5; log 1). -/
def Obligations.ShiftRightInEverySetting : Prop :=
  ∀ (s : State) (x y : Reg),
    let src := if s.params.shiftSrc = .vx then x else y
    let a := (s.reg src).toNat
    ∃ t, exec (.shr x y) s = .next t ∧
      (s.params.shiftVfOrder = .flagLast → (t.reg vf).toNat = a % 2 ∧ (x ≠ vf → (t.reg x).toNat = a / 2)) ∧
      (s.params.shiftVfOrder = .flagFirst →
        (x = vf → (t.reg vf).toNat = if src = vf then 0 else a / 2) ∧
        (x ≠ vf → (t.reg vf).toNat = a % 2 ∧ (t.reg x).toNat = if src = vf then 0 else a / 2)) ∧
      KeepsRegsBut [x, vf] s t ∧ t.pc = s.pc + 2 ∧ KeepsAllBut [.regs] s t

/-- R121, for every setting of SHIFT_SRC and SHIFT_VF_ORDER (decisions D4, D5; log 1). -/
def Obligations.ShiftLeftInEverySetting : Prop :=
  ∀ (s : State) (x y : Reg),
    let src := if s.params.shiftSrc = .vx then x else y
    let a := (s.reg src).toNat
    ∃ t, exec (.shl x y) s = .next t ∧
      (s.params.shiftVfOrder = .flagLast →
        (t.reg vf).toNat = a / 128 ∧ (x ≠ vf → (t.reg x).toNat = 2 * a % 256)) ∧
      (s.params.shiftVfOrder = .flagFirst →
        (x = vf → (t.reg vf).toNat = if src = vf then 2 * (a / 128) else 2 * a % 256) ∧
        (x ≠ vf → (t.reg vf).toNat = a / 128 ∧
          (t.reg x).toNat = if src = vf then 2 * (a / 128) else 2 * a % 256)) ∧
      KeepsRegsBut [x, vf] s t ∧ t.pc = s.pc + 2 ∧ KeepsAllBut [.regs] s t

/-! ### Index register and memory -/

/-- R130, R131, R132 (no flag: decision D8; the nibble mask: D17). -/
def Obligations.IndexRegisterWrites : Prop :=
  ∀ (s : State) (x : Reg) (nnn : Addr),
    (∃ t, exec (.ldI nnn) s = .next t ∧ t.idx.toNat = nnn.toNat ∧
      t.pc = s.pc + 2 ∧ KeepsAllBut [.index] s t) ∧
    (∃ t, exec (.addI x) s = .next t ∧ t.idx.toNat = (s.idx.toNat + (s.reg x).toNat) % 65536 ∧
      t.pc = s.pc + 2 ∧ KeepsAllBut [.index] s t) ∧
    (∃ t, exec (.ldF x) s = .next t ∧ t.idx.toNat = 0x050 + 5 * ((s.reg x).toNat % 16) ∧
      t.pc = s.pc + 2 ∧ KeepsAllBut [.index] s t)

/-- R133 with the masking of R42 (decision D10). -/
def Obligations.BcdStoreWritesThreeDigits : Prop :=
  ∀ (s : State) (x : Reg),
    ∃ t, exec (.ldB x) s = .next t ∧
      (t.readByte (dataAddr s.idx 0)).toNat = (s.reg x).toNat / 100 ∧
      (t.readByte (dataAddr s.idx 1)).toNat = (s.reg x).toNat / 10 % 10 ∧
      (t.readByte (dataAddr s.idx 2)).toNat = (s.reg x).toNat % 10 ∧
      (∀ a, (∀ k < 3, a ≠ dataAddr s.idx k) → t.readByte a = s.readByte a) ∧
      t.pc = s.pc + 2 ∧ KeepsAllBut [.memory] s t

/-- R134, for every setting of LDST_I_MODE (decision D6, log 1), with the masking of R42 (D10). -/
def Obligations.StoreRegistersWritesAscending : Prop :=
  ∀ (s : State) (x : Reg),
    ∃ t, exec (.ldMemVx x) s = .next t ∧
      (∀ k : Reg, k.toNat ≤ x.toNat → t.readByte (dataAddr s.idx k.toNat) = s.reg k) ∧
      (∀ a, (∀ k, k ≤ x.toNat → a ≠ dataAddr s.idx k) → t.readByte a = s.readByte a) ∧
      (s.params.ldstIMode = .unchanged → t.idx = s.idx) ∧
      (s.params.ldstIMode = .incXPlus1 → t.idx.toNat = (s.idx.toNat + x.toNat + 1) % 65536) ∧
      (s.params.ldstIMode = .incX → t.idx.toNat = (s.idx.toNat + x.toNat) % 65536) ∧
      t.pc = s.pc + 2 ∧ KeepsAllBut [.memory, .index] s t

/-- R135, for every setting of LDST_I_MODE (decision D6, log 1), with the masking of R42 (D10). -/
def Obligations.LoadRegistersReadsAscending : Prop :=
  ∀ (s : State) (x : Reg),
    ∃ t, exec (.ldVxMem x) s = .next t ∧
      (∀ k : Reg, k.toNat ≤ x.toNat → t.reg k = s.readByte (dataAddr s.idx k.toNat)) ∧
      (∀ k : Reg, x.toNat < k.toNat → t.reg k = s.reg k) ∧
      (s.params.ldstIMode = .unchanged → t.idx = s.idx) ∧
      (s.params.ldstIMode = .incXPlus1 → t.idx.toNat = (s.idx.toNat + x.toNat + 1) % 65536) ∧
      (s.params.ldstIMode = .incX → t.idx.toNat = (s.idx.toNat + x.toNat) % 65536) ∧
      t.pc = s.pc + 2 ∧ KeepsAllBut [.regs, .index] s t

/-- R134, R135, R50: a load after a store to the same address returns the stored byte. -/
def Obligations.StoredRegistersLoadBack : Prop :=
  ∀ (s t u : State) (x : Reg), exec (.ldMemVx x) s = .next t → (∀ a, u.readByte a = t.readByte a) →
    u.idx = s.idx → ∃ w, exec (.ldVxMem x) u = .next w ∧ ∀ k : Reg, k.toNat ≤ x.toNat → w.reg k = s.reg k

/-- R53 (self-modifying code is legal and immediate), R44. -/
def Obligations.AStoreIsSeenByTheNextFetch : Prop :=
  ∀ (s t : State) (x j : Reg), exec (.ldMemVx x) s = .next t → j.toNat + 1 ≤ x.toNat →
    t.pc.toNat ≤ 0xFFE → t.pc.toNat = dataAddr s.idx j.toNat → t.pc.toNat + 1 = dataAddr s.idx (j.toNat + 1) →
    fetch t = some (joinBytes (s.reg j) (s.reg (j + 1)))

/-! ### Control transfer -/

/-- R101. -/
def Obligations.JumpSetsPc : Prop :=
  ∀ (s : State) (nnn : Addr),
    ∃ t, exec (.jpAddr nnn) s = .next t ∧ t.pc.toNat = nnn.toNat ∧ KeepsAllBut [] s t ∧
      (0xFFE < nnn.toNat → fetch t = none)

/-- R103 (decision D9). -/
def Obligations.IndexedJumpAddsV0 : Prop :=
  ∀ (s : State) (nnn : Addr),
    ∃ t, exec (.jpV0 nnn) s = .next t ∧ t.pc.toNat = nnn.toNat + (s.reg 0).toNat ∧ KeepsAllBut [] s t

/-- R102, R15, R16 (the stack convention is the spec's decision D12). -/
def Obligations.CallPushesTheReturnAddress : Prop :=
  ∀ (s : State) (nnn : Addr) (k : Fin 16), s.sp.toNat = k.val →
    ∃ t, exec (.callAddr nnn) s = .next t ∧ t.stack[k] = s.pc + 2 ∧
      (∀ j : Fin 16, j ≠ k → t.stack[j] = s.stack[j]) ∧ t.sp.toNat = k.val + 1 ∧
      t.pc.toNat = nnn.toNat ∧ KeepsAllBut [.stack] s t

/-- R100, R15, R16 (the stack convention is the spec's decision D12). -/
def Obligations.ReturnPopsTheReturnAddress : Prop :=
  ∀ (s : State) (k : Fin 16), s.sp.toNat = k.val + 1 →
    ∃ t, exec .ret s = .next t ∧ t.pc = s.stack[k] ∧ t.sp.toNat = k.val ∧ t.stack = s.stack ∧
      KeepsAllBut [.stack] s t

/-- R100, R102 (decision D12). -/
def Obligations.ReturnComesBackAfterTheCall : Prop :=
  ∀ (s t u : State) (nnn : Addr), s.sp.toNat < 16 → exec (.callAddr nnn) s = .next t →
    u.sp = t.sp → u.stack = t.stack → ∃ w, exec .ret u = .next w ∧ w.pc = s.pc + 2 ∧ w.sp = s.sp

/-- The model's choice (log 4): the spec gives no effect where R15's invariant fails. -/
def Obligations.StackPointerAboveSixteenStops : Prop :=
  ∀ (s : State) (nnn : Addr), 16 < s.sp.toNat →
    exec .ret s = .fault .stackPointerOutOfRange ∧ exec (.callAddr nnn) s = .fault .stackPointerOutOfRange

/-- R104 to R107. -/
def Obligations.RegisterCompareSkips : Prop :=
  ∀ (s : State) (x y : Reg) (nn : Byte),
    (∃ t, exec (.seByte x nn) s = .next t ∧
      t.pc = (if s.reg x = nn then s.pc + 4 else s.pc + 2) ∧ KeepsAllBut [] s t) ∧
    (∃ t, exec (.sneByte x nn) s = .next t ∧
      t.pc = (if s.reg x ≠ nn then s.pc + 4 else s.pc + 2) ∧ KeepsAllBut [] s t) ∧
    (∃ t, exec (.seReg x y) s = .next t ∧
      t.pc = (if s.reg x = s.reg y then s.pc + 4 else s.pc + 2) ∧ KeepsAllBut [] s t) ∧
    (∃ t, exec (.sneReg x y) s = .next t ∧
      t.pc = (if s.reg x ≠ s.reg y then s.pc + 4 else s.pc + 2) ∧ KeepsAllBut [] s t)

/-- R153, R154, R108 (the nibble mask is the spec's decision D16). -/
def Obligations.KeyTestSkips : Prop :=
  ∀ (s : State) (x : Reg),
    (∃ t, exec (.skp x) s = .next t ∧
      t.pc = (if s.keys.getLsbD ((s.reg x).toNat % 16) = true then s.pc + 4 else s.pc + 2) ∧
      KeepsAllBut [] s t) ∧
    (∃ t, exec (.sknp x) s = .next t ∧
      t.pc = (if s.keys.getLsbD ((s.reg x).toNat % 16) = false then s.pc + 4 else s.pc + 2) ∧
      KeepsAllBut [] s t)

/-! ### Display -/

/-- R140. -/
def Obligations.ClearScreenTurnsEveryPixelOff : Prop :=
  ∀ s : State,
    ∃ t, exec .cls s = .next t ∧ (∀ px py, Display.pixel t.fb px py = false) ∧
      t.pc = s.pc + 2 ∧ KeepsAllBut [.display] s t

/-- R141's loops against R142's law (geometry: decision D20; masking: D10). -/
def Obligations.DrawIsTheExclusiveOrWithTheSprite : Prop :=
  ∀ (s : State) (x y : Reg) (n : Nat), n < 16 →
    ∃ t, exec (.drw x y n) s = .next t ∧
      (∀ px py, Display.pixel t.fb px py = (Display.pixel s.fb px py ^^ spriteBit s x y n px py)) ∧
      (t.reg vf = 0 ∨ t.reg vf = 1) ∧
      (t.reg vf = 1 ↔ ∃ px py, Display.pixel s.fb px py = true ∧ spriteBit s x y n px py = true) ∧
      KeepsRegsBut [vf] s t ∧ t.pc = s.pc + 2 ∧ KeepsAllBut [.regs, .display] s t

/-- R141 corner case (h). -/
def Obligations.DrawingTwiceRestoresTheDisplay : Prop :=
  ∀ (s t : State) (x y : Reg) (n : Nat), n < 16 → x ≠ vf → y ≠ vf → exec (.drw x y n) s = .next t →
    ∃ u, exec (.drw x y n) t = .next u ∧ u.fb = s.fb ∧
      (u.reg vf = 1 ↔ ∃ px py, Display.pixel s.fb px py = false ∧ Display.pixel t.fb px py = true)

/-- R29 (the packing is the spec's decision D29), R180. -/
def Obligations.DisplayOutputIsRowMajor : Prop :=
  ∀ s : State, (∀ (px : Fin 64) (py : Fin 32), s.fbOut.getLsbD (64 * py.val + px.val) = Display.pixel s.fb px py) ∧
    (s.buzzer = true ↔ s.st ≠ 0)

/-! ### Timers, keys, random -/

/-- R151, R152. -/
def Obligations.TimerWrites : Prop :=
  ∀ (s : State) (x : Reg),
    (∃ t, exec (.ldDtVx x) s = .next t ∧ t.dt = s.reg x ∧
      t.pc = s.pc + 2 ∧ KeepsAllBut [.delayTimer] s t) ∧
    (∃ t, exec (.ldStVx x) s = .next t ∧ t.st = s.reg x ∧ (t.buzzer = true ↔ s.reg x ≠ 0) ∧
      t.pc = s.pc + 2 ∧ KeepsAllBut [.soundTimer] s t)

/-- R155, R24, R25 (the mechanism is the spec's decision D15). -/
def Obligations.KeyWaitBegins : Prop :=
  ∀ (s : State) (x : Reg),
    ∃ t, exec (.ldVxK x) s = .next t ∧ t.waiting = true ∧ t.waitX = x ∧ t.pc = s.pc ∧
      KeepsAllBut [.waitLatches] s t

/-- R155, R177, R178 (which key is reported: decision D15). It speaks of every state with `waiting` set; none a run reaches is halted. -/
def Obligations.LeastNewlyPressedKeyCompletesTheWait : Prop :=
  ∀ (s : State) (k : Word) (i : Fin 16), s.waiting = true →
    k.getLsbD i.val = true → s.keys.getLsbD i.val = false →
    (∀ j < i.val, ¬(k.getLsbD j = true ∧ s.keys.getLsbD j = false)) →
    ((s.setKeys k).reg s.waitX).toNat = i.val ∧ (s.setKeys k).pc = s.pc + 2 ∧
      (s.setKeys k).waiting = false ∧ (s.setKeys k).waitX = s.waitX ∧ (s.setKeys k).keys = k ∧
      KeepsRegsBut [s.waitX] s (s.setKeys k) ∧ KeepsAllBut [.regs, .waitLatches, .keys] s (s.setKeys k)

/-- R155 (a), (b), (c), (e), R177, R178 (decision D15; that keys is replaced on a halted core too: D14). -/
def Obligations.KeysWithoutAPressOnlyUpdateTheLatch : Prop :=
  ∀ (s : State) (k : Word),
    s.waiting = false ∨ (∀ j < 16, ¬(k.getLsbD j = true ∧ s.keys.getLsbD j = false)) →
    (s.setKeys k).keys = k ∧ (s.setKeys k).pc = s.pc ∧ KeepsAllBut [.keys] s (s.setKeys k)

/-- R156, R89. The drawn byte is a free value, and its counter the model's own (log 2): nothing is known of it. -/
def Obligations.RandomByteIsMasked : Prop :=
  ∀ (s : State) (x : Reg) (nn : Byte),
    ∃ t, exec (.rnd x nn) s = .next t ∧ t.reg x = Config.rnd s.draws &&& nn ∧
      (∀ k, nn.getLsbD k = false → (t.reg x).getLsbD k = false) ∧ t.draws = s.draws + 1 ∧
      KeepsRegsBut [x] s t ∧ t.pc = s.pc + 2 ∧ KeepsAllBut [.regs, .draws] s t

/-- R173, R174: in every run state. That the tick acts on a halted core is the spec's own decision D14 (log 5). Subtraction on Nat
stops at zero. -/
def Obligations.TickCountsBothTimersDown : Prop :=
  ∀ s : State, s.tick.dt.toNat = s.dt.toNat - 1 ∧ s.tick.st.toNat = s.st.toNat - 1 ∧ s.tick.pc = s.pc ∧
    KeepsAllBut [.delayTimer, .soundTimer] s s.tick

/-- R173, and the source's property S8. R174 for a halted core is the spec's decision D14 (log 5). -/
def Obligations.TicksNeverGoBelowZero : Prop :=
  ∀ (n : Nat) (s : State), (State.tick^[n] s).dt.toNat = s.dt.toNat - n ∧ (State.tick^[n] s).st.toNat = s.st.toNat - n

/-! ### Reset and load -/

/-- R191, R32, R18. The values of keys and of the latches are the spec's decision D22 (log 11); what the event keeps is the model's (log 7). -/
def Obligations.ResetEventRestoresEveryValue : Prop :=
  ∀ s : State, let t := s.resetEvent
    t.pc = 0x200 ∧ (∀ r : Reg, t.reg r = 0) ∧ t.idx = 0 ∧ t.sp = 0 ∧ (∀ k : Fin 16, t.stack[k] = 0) ∧
    t.dt = 0 ∧ t.st = 0 ∧ (∀ px py, Display.pixel t.fb px py = false) ∧
    (∀ j : Fin 80, t.readByte (0x050 + j.val) = s.params.fontTable[j]) ∧
    (∀ a, a < 0x050 ∨ 0x0A0 ≤ a → t.readByte a = 0) ∧
    t.keys = 0 ∧ t.waiting = false ∧ t.waitX = 0 ∧ t.halted = false ∧ t.errCode = 0 ∧ t.errOpcode = 0 ∧
    t.errPc = 0 ∧ t.loadErr = false ∧ t.params = s.params

/-- R32, R191, R18, R19: every row of the table, all 4096 bytes of memory among them.
keys and the latches: the spec's decision D22 (log 11); the font bytes: D18 (log 1). -/
def Obligations.ResetStateHasTheTableValues : Prop :=
  State.reset.pc = 0x200 ∧ (∀ r : Reg, State.reset.reg r = 0) ∧ State.reset.idx = 0 ∧ State.reset.sp = 0 ∧
  (∀ k : Fin 16, State.reset.stack[k] = 0) ∧ State.reset.dt = 0 ∧ State.reset.st = 0 ∧
  (∀ px py, Display.pixel State.reset.fb px py = false) ∧
  State.reset.keys = 0 ∧ State.reset.waiting = false ∧ State.reset.waitX = 0 ∧ State.reset.halted = false ∧
  State.reset.errCode = 0 ∧ State.reset.errOpcode = 0 ∧ State.reset.errPc = 0 ∧ State.reset.loadErr = false ∧
  (∀ a, a < 0x050 ∨ (0x0A0 ≤ a ∧ a < 0x1000) → State.reset.readByte a = 0) ∧
  (List.range 80).map (fun k => State.reset.readByte (0x050 + k)) =
    ([0xF0, 0x90, 0x90, 0x90, 0xF0, 0x20, 0x60, 0x20, 0x20, 0x70, 0xF0, 0x10, 0xF0, 0x80, 0xF0, 0xF0, 0x10, 0xF0, 0x10, 0xF0] ++
     [0x90, 0x90, 0xF0, 0x10, 0x10, 0xF0, 0x80, 0xF0, 0x10, 0xF0, 0xF0, 0x80, 0xF0, 0x90, 0xF0, 0xF0, 0x10, 0x20, 0x40, 0x40] ++
     [0xF0, 0x90, 0xF0, 0x90, 0xF0, 0xF0, 0x90, 0xF0, 0x10, 0xF0, 0xF0, 0x90, 0xF0, 0x90, 0x90, 0xE0, 0x90, 0xE0, 0x90, 0xE0] ++
     [0xF0, 0x80, 0x80, 0x80, 0xF0, 0xE0, 0x90, 0x90, 0x90, 0xE0, 0xF0, 0x80, 0xF0, 0x80, 0xF0, 0xF0, 0x80, 0xF0, 0x80, 0x80] : List Byte)

/-- R194, R196, R56 (what load does beside copying is the spec's decision D21, that it acts on a halted core D14). -/
def Obligations.LoadCopiesTheRom : Prop :=
  ∀ (s : State) (rom : List Byte), rom.length ≤ 3584 → let t := s.load rom
    (∀ (i : Nat) (h : i < rom.length), t.readByte (0x200 + i) = rom[i]) ∧
    (∀ a, a < 0x200 ∨ 0x200 + rom.length ≤ a → t.readByte a = s.readByte a) ∧
    t.pc = 0x200 ∧ t.sp = 0 ∧ t.stack = s.stack ∧ (∀ r : Reg, t.reg r = 0) ∧
    t.waiting = false ∧ t.waitX = s.waitX ∧ t.loadErr = false ∧
    KeepsAllBut [.memory, .stack, .regs, .waitLatches, .loadErr] s t

/-- R165, R195 (the latch is the spec's decision D13). -/
def Obligations.TooLargeRomChangesOnlyLoadErr : Prop :=
  ∀ (s : State) (rom : List Byte), 3584 < rom.length →
    (s.load rom).loadErr = true ∧ (s.load rom).pc = s.pc ∧ KeepsAllBut [.loadErr] s (s.load rom)

/-! ### Invariants and whole-machine rules -/

/-- R31, R26, R32 for the initial states (R190). Canonical memory is the model's own (log 6), as are the parameters (log 1) and the
events to come (log 3). That halted and waiting are clear at reset is the spec's decision D22 (log 11). -/
def Obligations.ResetStateMeetsTheInvariant : Prop :=
  ∀ (p : Params) (es : List Event),
    (State.start p es).Inv ∧ (State.start p es).halted = false ∧ (State.start p es).waiting = false

/-- R31, R26, R15, R13, over all five events. Canonical memory is the model's own (log 6), and the schedule that gives the event
is the model's field (log 3). -/
def Obligations.EveryStepKeepsTheInvariant : Prop :=
  ∀ s t : State, s.Inv → step s = .next t → t.Inv

/-- R166, R168, R88: the machine is total. The only stop is the model's own above SP = 16 (log 4). -/
def Obligations.AStepNeverStopsTheMachine : Prop :=
  ∀ s : State, s.Inv → ∃ t, step s = .next t

/-- R31 for every history of R81, loads and resets at any point included: the corollary of EveryStepKeepsTheInvariant over runs.
That the events of a history stand in the state is the model's choice (log 3), as is that a history begins at State.start and that
a reset event keeps the events to come (log 7). -/
def Obligations.EveryHistoryMeetsTheInvariant : Prop :=
  (∀ (p : Params) (es : List Event) (k : Nat), ∃ s, Host.Core.run Sys2Proof.core k (State.start p es) = .next s) ∧
  (∀ s : State, Reached s → s.Inv)

/-- R4: taken once, they never change during a run. Holding them in State is the model's choice (log 1). -/
def Obligations.ParametersNeverChange : Prop :=
  ∀ s t : State, step s = .next t → t.params = s.params

/-- R11, R12: VF is written as a side effect by exactly six instructions (D7, D8 for those that do not). -/
def Obligations.RegistersAreWrittenOnlyWhereNamed : Prop :=
  ∀ (i : Instr) (s t : State) (r : Reg), exec i s = .next t → writesReg i r = false → t.reg r = s.reg r

/-- R14, R15, R16, R20 to R24, R26, R40 read over all 34 instructions. The clause on `draws` is the model's own: the count indexes
the free value of R28 and R89 (log 2). So are the configuration (log 1) and the schedule (log 3) staying as they are. -/
def Obligations.InstructionsWriteOnlyTheirParts : Prop :=
  ∀ (i : Instr) (s t : State), exec i s = .next t → KeepsAllBut (writesPart i) s t

/-- R85, R86. -/
def Obligations.EveryOtherInstructionAdvancesPc : Prop :=
  ∀ (i : Instr) (s : State), setsPc i = false → ∃ t, exec i s = .next t ∧ t.pc = s.pc + 2

/-- R92 (decision D26). -/
def Obligations.IdleLoopStays : Prop :=
  ∀ s : State, AtIdleLoop s → StepIsNext s → step s = .next s
end

