-- ==== Sys2Proof/Laws/Decode.lean ====
section
/-! SUPPORT. The fields of the encoder's words, the rows of the table as field equations, and the two halves of a
word put together again. -/

namespace Sys2Proof

/-- Bits above the lower part of a concatenation are the upper part's. -/
theorem extract_append_high {m n : Nat} (a : BitVec m) (b : BitVec n) (k l : Nat) :
    (a ++ b).extractLsb' (n + k) l = a.extractLsb' k l := by
  ext j hj
  have h : ¬ n + k + j < n := by omega
  simp only [BitVec.getElem_extractLsb', BitVec.getLsbD_append, h, if_false]
  congr 1
  omega

/-- Bits inside the lower part of a concatenation are the lower part's. -/
theorem extract_append_low {m n : Nat} (a : BitVec m) (b : BitVec n) (k l : Nat) (h : k + l ≤ n) :
    (a ++ b).extractLsb' k l = b.extractLsb' k l := by
  ext j hj
  have h' : k + j < n := by omega
  simp [BitVec.getLsbD_append, h']

theorem extract_whole {n : Nat} (a : BitVec n) : a.extractLsb' 0 n = a := by
  ext j hj
  simp

theorem fieldOp_wordNNN (op : BitVec 4) (a : Addr) : fieldOp (wordNNN op a) = op :=
  (extract_append_high op a 0 4).trans (extract_whole op)

theorem fieldNNN_wordNNN (op : BitVec 4) (a : Addr) : fieldNNN (wordNNN op a) = a :=
  (extract_append_low op a 0 12 (by decide)).trans (extract_whole a)

theorem fieldOp_wordXNN (op : BitVec 4) (x : Reg) (b : Byte) : fieldOp (wordXNN op x b) = op :=
  (extract_append_high (op ++ x) b 4 4).trans ((extract_append_high op x 0 4).trans (extract_whole op))

theorem fieldX_wordXNN (op : BitVec 4) (x : Reg) (b : Byte) : fieldX (wordXNN op x b) = x :=
  (extract_append_high (op ++ x) b 0 4).trans ((extract_append_low op x 0 4 (by decide)).trans (extract_whole x))

theorem fieldNN_wordXNN (op : BitVec 4) (x : Reg) (b : Byte) : fieldNN (wordXNN op x b) = b :=
  (extract_append_low (op ++ x) b 0 8 (by decide)).trans (extract_whole b)

theorem fieldOp_wordXYN (op : BitVec 4) (x y : Reg) (n : BitVec 4) : fieldOp (wordXYN op x y n) = op :=
  (extract_append_high (op ++ x ++ y) n 8 4).trans
    ((extract_append_high (op ++ x) y 4 4).trans ((extract_append_high op x 0 4).trans (extract_whole op)))

theorem fieldX_wordXYN (op : BitVec 4) (x y : Reg) (n : BitVec 4) : fieldX (wordXYN op x y n) = x :=
  (extract_append_high (op ++ x ++ y) n 4 4).trans
    ((extract_append_high (op ++ x) y 0 4).trans ((extract_append_low op x 0 4 (by decide)).trans (extract_whole x)))

theorem fieldY_wordXYN (op : BitVec 4) (x y : Reg) (n : BitVec 4) : fieldY (wordXYN op x y n) = y :=
  (extract_append_high (op ++ x ++ y) n 0 4).trans
    ((extract_append_low (op ++ x) y 0 4 (by decide)).trans (extract_whole y))

theorem fieldN_wordXYN (op : BitVec 4) (x y : Reg) (n : BitVec 4) : fieldN (wordXYN op x y n) = n :=
  (extract_append_low (op ++ x ++ y) n 0 4 (by decide)).trans (extract_whole n)

theorem wordNNN_fields (w : Word) : wordNNN (fieldOp w) (fieldNNN w) = w := by
  unfold wordNNN fieldOp fieldNNN
  apply BitVec.eq_of_getElem_eq
  intro j hj
  simp only [BitVec.getElem_append, BitVec.getElem_extractLsb']
  split
  · simp [← BitVec.getLsbD_eq_getElem]
  · rw [← BitVec.getLsbD_eq_getElem]; congr 1; omega

theorem wordXNN_fields (w : Word) : wordXNN (fieldOp w) (fieldX w) (fieldNN w) = w := by
  unfold wordXNN fieldOp fieldX fieldNN
  apply BitVec.eq_of_getElem_eq
  intro j hj
  simp only [BitVec.getElem_append, BitVec.getElem_extractLsb']
  repeat' split
  all_goals (rw [← BitVec.getLsbD_eq_getElem]; congr 1; omega)

theorem wordXYN_fields (w : Word) : wordXYN (fieldOp w) (fieldX w) (fieldY w) (fieldN w) = w := by
  unfold wordXYN fieldOp fieldX fieldY fieldN
  apply BitVec.eq_of_getElem_eq
  intro j hj
  simp only [BitVec.getElem_append, BitVec.getElem_extractLsb']
  repeat' split
  all_goals (rw [← BitVec.getLsbD_eq_getElem]; congr 1; omega)

/-! ### Rows of the table, as field equations -/

theorem and_0xF : ∀ a : BitVec 4, a &&& 0xF#4 = a := by decide

theorem and_0xFF : ∀ a : BitVec 8, a &&& 0xFF#8 = a := by decide

theorem wordNNN_and (o p : BitVec 4) (a b : Addr) : wordNNN o a &&& wordNNN p b = wordNNN (o &&& p) (a &&& b) :=
  BitVec.and_append

theorem wordXNN_and (o p : BitVec 4) (x y : Reg) (a b : Byte) :
    wordXNN o x a &&& wordXNN p y b = wordXNN (o &&& p) (x &&& y) (a &&& b) :=
  BitVec.and_append.trans (congrArg (· ++ (a &&& b)) BitVec.and_append)

theorem wordXYN_and (o p : BitVec 4) (x y u v : Reg) (a b : BitVec 4) :
    wordXYN o x u a &&& wordXYN p y v b = wordXYN (o &&& p) (x &&& y) (u &&& v) (a &&& b) :=
  BitVec.and_append.trans
    (congrArg (· ++ (a &&& b)) (BitVec.and_append.trans (congrArg (· ++ (u &&& v)) BitVec.and_append)))

/-- A row with no operand accepts its own word alone. -/
theorem Row.accepts_whole (w c : Word) : Row.accepts ⟨c, 0xFFFF⟩ w = true ↔ w = c := by
  rw [Row.accepts, beq_iff_eq, show (0xFFFF : Word) = BitVec.allOnes 16 from rfl, BitVec.and_allOnes]

/-- A row that fixes only `op`. -/
theorem Row.accepts_op (w : Word) (o : BitVec 4) : Row.accepts ⟨wordNNN o 0, 0xF000⟩ w = true ↔ fieldOp w = o := by
  rw [Row.accepts, beq_iff_eq, show (0xF000 : Word) = wordNNN 0xF#4 0#12 by decide]
  conv_lhs => rw [← wordNNN_fields w, wordNNN_and, and_0xF, BitVec.and_zero]
  constructor
  · intro h
    have h1 := congrArg fieldOp h
    rwa [fieldOp_wordNNN, fieldOp_wordNNN] at h1
  · intro h
    rw [h]
    rfl

/-- A row that fixes `op` and `nn`. -/
theorem Row.accepts_op_nn (w : Word) (o : BitVec 4) (b : Byte) :
    Row.accepts ⟨wordXNN o 0 b, 0xF0FF⟩ w = true ↔ fieldOp w = o ∧ fieldNN w = b := by
  rw [Row.accepts, beq_iff_eq, show (0xF0FF : Word) = wordXNN 0xF#4 0#4 0xFF#8 by decide]
  conv_lhs => rw [← wordXNN_fields w, wordXNN_and, and_0xF, and_0xFF, BitVec.and_zero]
  constructor
  · intro h
    have h1 := congrArg fieldOp h
    have h2 := congrArg fieldNN h
    rw [fieldOp_wordXNN, fieldOp_wordXNN] at h1
    rw [fieldNN_wordXNN, fieldNN_wordXNN] at h2
    exact ⟨h1, h2⟩
  · rintro ⟨h1, h2⟩
    rw [h1, h2]
    rfl

/-- A row that fixes `op` and `n`. -/
theorem Row.accepts_op_n (w : Word) (o n : BitVec 4) :
    Row.accepts ⟨wordXYN o 0 0 n, 0xF00F⟩ w = true ↔ fieldOp w = o ∧ fieldN w = n := by
  rw [Row.accepts, beq_iff_eq, show (0xF00F : Word) = wordXYN 0xF#4 0#4 0#4 0xF#4 by decide]
  conv_lhs => rw [← wordXYN_fields w, wordXYN_and, and_0xF, and_0xF, BitVec.and_zero, BitVec.and_zero]
  constructor
  · intro h
    have h1 := congrArg fieldOp h
    have h2 := congrArg fieldN h
    rw [fieldOp_wordXYN, fieldOp_wordXYN] at h1
    rw [fieldN_wordXYN, fieldN_wordXYN] at h2
    exact ⟨h1, h2⟩
  · rintro ⟨h1, h2⟩
    rw [h1, h2]
    rfl

/-- R44: the two halves of a word, high byte first, are the word. -/
theorem joinBytes_halves (w : Word) : joinBytes (highByte w) (lowByte w) = w := by
  unfold joinBytes highByte lowByte
  apply BitVec.eq_of_getElem_eq
  intro j hj
  simp only [BitVec.getElem_append, BitVec.getElem_extractLsb']
  split
  · simp [← BitVec.getLsbD_eq_getElem]
  · rw [← BitVec.getLsbD_eq_getElem]; congr 1; omega

theorem decodeBytes_two (hi lo : Byte) (rest : List Byte) :
    decodeBytes (hi :: lo :: rest) = (decode (joinBytes hi lo)).map fun i => (i, rest) := rfl

/-- The decoder on table numbering is the decoder on the word itself. -/
theorem decodeTableWord_eq (w : Word) (i : Instr) (h : decode w = .ok i) : decodeTableWord 16 w.toNat = some i := by
  have hw : tableWord 16 w.toNat = w := by
    unfold tableWord
    rw [Nat.mod_eq_of_lt w.isLt, BitVec.ofNat_toNat]
    simp
  unfold decodeTableWord
  rw [hw, decodeBytes_two, joinBytes_halves, h]
  rfl

end Sys2Proof
end

