-- ==== Sys2Proof/Laws/State.lean ====
section
/-! SUPPORT. One lemma per field per update of State, each true by rfl, so that no later proof unfolds a record update. -/

namespace Sys2Proof.Machine

/-! ### setReg -/

@[simp] theorem State.v_setReg (s : State) (x : Reg) (b : Byte) : (s.setReg x b).v = s.v.set x.toNat b x.isLt := rfl
@[simp] theorem State.pc_setReg (s : State) (x : Reg) (b : Byte) : (s.setReg x b).pc = s.pc := rfl
@[simp] theorem State.idx_setReg (s : State) (x : Reg) (b : Byte) : (s.setReg x b).idx = s.idx := rfl
@[simp] theorem State.sp_setReg (s : State) (x : Reg) (b : Byte) : (s.setReg x b).sp = s.sp := rfl
@[simp] theorem State.stack_setReg (s : State) (x : Reg) (b : Byte) : (s.setReg x b).stack = s.stack := rfl
@[simp] theorem State.mem_setReg (s : State) (x : Reg) (b : Byte) : (s.setReg x b).mem = s.mem := rfl
@[simp] theorem State.fb_setReg (s : State) (x : Reg) (b : Byte) : (s.setReg x b).fb = s.fb := rfl
@[simp] theorem State.keys_setReg (s : State) (x : Reg) (b : Byte) : (s.setReg x b).keys = s.keys := rfl
@[simp] theorem State.dt_setReg (s : State) (x : Reg) (b : Byte) : (s.setReg x b).dt = s.dt := rfl
@[simp] theorem State.st_setReg (s : State) (x : Reg) (b : Byte) : (s.setReg x b).st = s.st := rfl
@[simp] theorem State.waiting_setReg (s : State) (x : Reg) (b : Byte) : (s.setReg x b).waiting = s.waiting := rfl
@[simp] theorem State.waitX_setReg (s : State) (x : Reg) (b : Byte) : (s.setReg x b).waitX = s.waitX := rfl
@[simp] theorem State.halted_setReg (s : State) (x : Reg) (b : Byte) : (s.setReg x b).halted = s.halted := rfl
@[simp] theorem State.errCode_setReg (s : State) (x : Reg) (b : Byte) : (s.setReg x b).errCode = s.errCode := rfl
@[simp] theorem State.errOpcode_setReg (s : State) (x : Reg) (b : Byte) : (s.setReg x b).errOpcode = s.errOpcode := rfl
@[simp] theorem State.errPc_setReg (s : State) (x : Reg) (b : Byte) : (s.setReg x b).errPc = s.errPc := rfl
@[simp] theorem State.loadErr_setReg (s : State) (x : Reg) (b : Byte) : (s.setReg x b).loadErr = s.loadErr := rfl
@[simp] theorem State.params_setReg (s : State) (x : Reg) (b : Byte) : (s.setReg x b).params = s.params := rfl
@[simp] theorem State.draws_setReg (s : State) (x : Reg) (b : Byte) : (s.setReg x b).draws = s.draws := rfl
@[simp] theorem State.schedule_setReg (s : State) (x : Reg) (b : Byte) : (s.setReg x b).schedule = s.schedule := rfl

@[simp] theorem State.readByte_setReg (s : State) (x : Reg) (b : Byte) (n : Nat) : (s.setReg x b).readByte n = s.readByte n := rfl

/-! ### setPc -/

@[simp] theorem State.v_setPc (s : State) (a : Word) : (s.setPc a).v = s.v := rfl
@[simp] theorem State.pc_setPc (s : State) (a : Word) : (s.setPc a).pc = a := rfl
@[simp] theorem State.idx_setPc (s : State) (a : Word) : (s.setPc a).idx = s.idx := rfl
@[simp] theorem State.sp_setPc (s : State) (a : Word) : (s.setPc a).sp = s.sp := rfl
@[simp] theorem State.stack_setPc (s : State) (a : Word) : (s.setPc a).stack = s.stack := rfl
@[simp] theorem State.mem_setPc (s : State) (a : Word) : (s.setPc a).mem = s.mem := rfl
@[simp] theorem State.fb_setPc (s : State) (a : Word) : (s.setPc a).fb = s.fb := rfl
@[simp] theorem State.keys_setPc (s : State) (a : Word) : (s.setPc a).keys = s.keys := rfl
@[simp] theorem State.dt_setPc (s : State) (a : Word) : (s.setPc a).dt = s.dt := rfl
@[simp] theorem State.st_setPc (s : State) (a : Word) : (s.setPc a).st = s.st := rfl
@[simp] theorem State.waiting_setPc (s : State) (a : Word) : (s.setPc a).waiting = s.waiting := rfl
@[simp] theorem State.waitX_setPc (s : State) (a : Word) : (s.setPc a).waitX = s.waitX := rfl
@[simp] theorem State.halted_setPc (s : State) (a : Word) : (s.setPc a).halted = s.halted := rfl
@[simp] theorem State.errCode_setPc (s : State) (a : Word) : (s.setPc a).errCode = s.errCode := rfl
@[simp] theorem State.errOpcode_setPc (s : State) (a : Word) : (s.setPc a).errOpcode = s.errOpcode := rfl
@[simp] theorem State.errPc_setPc (s : State) (a : Word) : (s.setPc a).errPc = s.errPc := rfl
@[simp] theorem State.loadErr_setPc (s : State) (a : Word) : (s.setPc a).loadErr = s.loadErr := rfl
@[simp] theorem State.params_setPc (s : State) (a : Word) : (s.setPc a).params = s.params := rfl
@[simp] theorem State.draws_setPc (s : State) (a : Word) : (s.setPc a).draws = s.draws := rfl
@[simp] theorem State.schedule_setPc (s : State) (a : Word) : (s.setPc a).schedule = s.schedule := rfl

@[simp] theorem State.reg_setPc (s : State) (a : Word) (r : Reg) : (s.setPc a).reg r = s.reg r := rfl
@[simp] theorem State.readByte_setPc (s : State) (a : Word) (n : Nat) : (s.setPc a).readByte n = s.readByte n := rfl

/-! ### advance -/

@[simp] theorem State.v_advance (s : State) : (s.advance).v = s.v := rfl
@[simp] theorem State.pc_advance (s : State) : (s.advance).pc = s.pc + 2 := rfl
@[simp] theorem State.idx_advance (s : State) : (s.advance).idx = s.idx := rfl
@[simp] theorem State.sp_advance (s : State) : (s.advance).sp = s.sp := rfl
@[simp] theorem State.stack_advance (s : State) : (s.advance).stack = s.stack := rfl
@[simp] theorem State.mem_advance (s : State) : (s.advance).mem = s.mem := rfl
@[simp] theorem State.fb_advance (s : State) : (s.advance).fb = s.fb := rfl
@[simp] theorem State.keys_advance (s : State) : (s.advance).keys = s.keys := rfl
@[simp] theorem State.dt_advance (s : State) : (s.advance).dt = s.dt := rfl
@[simp] theorem State.st_advance (s : State) : (s.advance).st = s.st := rfl
@[simp] theorem State.waiting_advance (s : State) : (s.advance).waiting = s.waiting := rfl
@[simp] theorem State.waitX_advance (s : State) : (s.advance).waitX = s.waitX := rfl
@[simp] theorem State.halted_advance (s : State) : (s.advance).halted = s.halted := rfl
@[simp] theorem State.errCode_advance (s : State) : (s.advance).errCode = s.errCode := rfl
@[simp] theorem State.errOpcode_advance (s : State) : (s.advance).errOpcode = s.errOpcode := rfl
@[simp] theorem State.errPc_advance (s : State) : (s.advance).errPc = s.errPc := rfl
@[simp] theorem State.loadErr_advance (s : State) : (s.advance).loadErr = s.loadErr := rfl
@[simp] theorem State.params_advance (s : State) : (s.advance).params = s.params := rfl
@[simp] theorem State.draws_advance (s : State) : (s.advance).draws = s.draws := rfl
@[simp] theorem State.schedule_advance (s : State) : (s.advance).schedule = s.schedule := rfl

@[simp] theorem State.reg_advance (s : State) (r : Reg) : (s.advance).reg r = s.reg r := rfl
@[simp] theorem State.readByte_advance (s : State) (n : Nat) : (s.advance).readByte n = s.readByte n := rfl

/-! ### setIdx -/

@[simp] theorem State.v_setIdx (s : State) (a : Word) : (s.setIdx a).v = s.v := rfl
@[simp] theorem State.pc_setIdx (s : State) (a : Word) : (s.setIdx a).pc = s.pc := rfl
@[simp] theorem State.idx_setIdx (s : State) (a : Word) : (s.setIdx a).idx = a := rfl
@[simp] theorem State.sp_setIdx (s : State) (a : Word) : (s.setIdx a).sp = s.sp := rfl
@[simp] theorem State.stack_setIdx (s : State) (a : Word) : (s.setIdx a).stack = s.stack := rfl
@[simp] theorem State.mem_setIdx (s : State) (a : Word) : (s.setIdx a).mem = s.mem := rfl
@[simp] theorem State.fb_setIdx (s : State) (a : Word) : (s.setIdx a).fb = s.fb := rfl
@[simp] theorem State.keys_setIdx (s : State) (a : Word) : (s.setIdx a).keys = s.keys := rfl
@[simp] theorem State.dt_setIdx (s : State) (a : Word) : (s.setIdx a).dt = s.dt := rfl
@[simp] theorem State.st_setIdx (s : State) (a : Word) : (s.setIdx a).st = s.st := rfl
@[simp] theorem State.waiting_setIdx (s : State) (a : Word) : (s.setIdx a).waiting = s.waiting := rfl
@[simp] theorem State.waitX_setIdx (s : State) (a : Word) : (s.setIdx a).waitX = s.waitX := rfl
@[simp] theorem State.halted_setIdx (s : State) (a : Word) : (s.setIdx a).halted = s.halted := rfl
@[simp] theorem State.errCode_setIdx (s : State) (a : Word) : (s.setIdx a).errCode = s.errCode := rfl
@[simp] theorem State.errOpcode_setIdx (s : State) (a : Word) : (s.setIdx a).errOpcode = s.errOpcode := rfl
@[simp] theorem State.errPc_setIdx (s : State) (a : Word) : (s.setIdx a).errPc = s.errPc := rfl
@[simp] theorem State.loadErr_setIdx (s : State) (a : Word) : (s.setIdx a).loadErr = s.loadErr := rfl
@[simp] theorem State.params_setIdx (s : State) (a : Word) : (s.setIdx a).params = s.params := rfl
@[simp] theorem State.draws_setIdx (s : State) (a : Word) : (s.setIdx a).draws = s.draws := rfl
@[simp] theorem State.schedule_setIdx (s : State) (a : Word) : (s.setIdx a).schedule = s.schedule := rfl

@[simp] theorem State.reg_setIdx (s : State) (a : Word) (r : Reg) : (s.setIdx a).reg r = s.reg r := rfl
@[simp] theorem State.readByte_setIdx (s : State) (a : Word) (n : Nat) : (s.setIdx a).readByte n = s.readByte n := rfl

/-! ### setDt -/

@[simp] theorem State.v_setDt (s : State) (b : Byte) : (s.setDt b).v = s.v := rfl
@[simp] theorem State.pc_setDt (s : State) (b : Byte) : (s.setDt b).pc = s.pc := rfl
@[simp] theorem State.idx_setDt (s : State) (b : Byte) : (s.setDt b).idx = s.idx := rfl
@[simp] theorem State.sp_setDt (s : State) (b : Byte) : (s.setDt b).sp = s.sp := rfl
@[simp] theorem State.stack_setDt (s : State) (b : Byte) : (s.setDt b).stack = s.stack := rfl
@[simp] theorem State.mem_setDt (s : State) (b : Byte) : (s.setDt b).mem = s.mem := rfl
@[simp] theorem State.fb_setDt (s : State) (b : Byte) : (s.setDt b).fb = s.fb := rfl
@[simp] theorem State.keys_setDt (s : State) (b : Byte) : (s.setDt b).keys = s.keys := rfl
@[simp] theorem State.dt_setDt (s : State) (b : Byte) : (s.setDt b).dt = b := rfl
@[simp] theorem State.st_setDt (s : State) (b : Byte) : (s.setDt b).st = s.st := rfl
@[simp] theorem State.waiting_setDt (s : State) (b : Byte) : (s.setDt b).waiting = s.waiting := rfl
@[simp] theorem State.waitX_setDt (s : State) (b : Byte) : (s.setDt b).waitX = s.waitX := rfl
@[simp] theorem State.halted_setDt (s : State) (b : Byte) : (s.setDt b).halted = s.halted := rfl
@[simp] theorem State.errCode_setDt (s : State) (b : Byte) : (s.setDt b).errCode = s.errCode := rfl
@[simp] theorem State.errOpcode_setDt (s : State) (b : Byte) : (s.setDt b).errOpcode = s.errOpcode := rfl
@[simp] theorem State.errPc_setDt (s : State) (b : Byte) : (s.setDt b).errPc = s.errPc := rfl
@[simp] theorem State.loadErr_setDt (s : State) (b : Byte) : (s.setDt b).loadErr = s.loadErr := rfl
@[simp] theorem State.params_setDt (s : State) (b : Byte) : (s.setDt b).params = s.params := rfl
@[simp] theorem State.draws_setDt (s : State) (b : Byte) : (s.setDt b).draws = s.draws := rfl
@[simp] theorem State.schedule_setDt (s : State) (b : Byte) : (s.setDt b).schedule = s.schedule := rfl

@[simp] theorem State.reg_setDt (s : State) (b : Byte) (r : Reg) : (s.setDt b).reg r = s.reg r := rfl
@[simp] theorem State.readByte_setDt (s : State) (b : Byte) (n : Nat) : (s.setDt b).readByte n = s.readByte n := rfl

/-! ### setSt -/

@[simp] theorem State.v_setSt (s : State) (b : Byte) : (s.setSt b).v = s.v := rfl
@[simp] theorem State.pc_setSt (s : State) (b : Byte) : (s.setSt b).pc = s.pc := rfl
@[simp] theorem State.idx_setSt (s : State) (b : Byte) : (s.setSt b).idx = s.idx := rfl
@[simp] theorem State.sp_setSt (s : State) (b : Byte) : (s.setSt b).sp = s.sp := rfl
@[simp] theorem State.stack_setSt (s : State) (b : Byte) : (s.setSt b).stack = s.stack := rfl
@[simp] theorem State.mem_setSt (s : State) (b : Byte) : (s.setSt b).mem = s.mem := rfl
@[simp] theorem State.fb_setSt (s : State) (b : Byte) : (s.setSt b).fb = s.fb := rfl
@[simp] theorem State.keys_setSt (s : State) (b : Byte) : (s.setSt b).keys = s.keys := rfl
@[simp] theorem State.dt_setSt (s : State) (b : Byte) : (s.setSt b).dt = s.dt := rfl
@[simp] theorem State.st_setSt (s : State) (b : Byte) : (s.setSt b).st = b := rfl
@[simp] theorem State.waiting_setSt (s : State) (b : Byte) : (s.setSt b).waiting = s.waiting := rfl
@[simp] theorem State.waitX_setSt (s : State) (b : Byte) : (s.setSt b).waitX = s.waitX := rfl
@[simp] theorem State.halted_setSt (s : State) (b : Byte) : (s.setSt b).halted = s.halted := rfl
@[simp] theorem State.errCode_setSt (s : State) (b : Byte) : (s.setSt b).errCode = s.errCode := rfl
@[simp] theorem State.errOpcode_setSt (s : State) (b : Byte) : (s.setSt b).errOpcode = s.errOpcode := rfl
@[simp] theorem State.errPc_setSt (s : State) (b : Byte) : (s.setSt b).errPc = s.errPc := rfl
@[simp] theorem State.loadErr_setSt (s : State) (b : Byte) : (s.setSt b).loadErr = s.loadErr := rfl
@[simp] theorem State.params_setSt (s : State) (b : Byte) : (s.setSt b).params = s.params := rfl
@[simp] theorem State.draws_setSt (s : State) (b : Byte) : (s.setSt b).draws = s.draws := rfl
@[simp] theorem State.schedule_setSt (s : State) (b : Byte) : (s.setSt b).schedule = s.schedule := rfl

@[simp] theorem State.reg_setSt (s : State) (b : Byte) (r : Reg) : (s.setSt b).reg r = s.reg r := rfl
@[simp] theorem State.readByte_setSt (s : State) (b : Byte) (n : Nat) : (s.setSt b).readByte n = s.readByte n := rfl

/-! ### drawn -/

@[simp] theorem State.v_drawn (s : State) : (s.drawn).v = s.v := rfl
@[simp] theorem State.pc_drawn (s : State) : (s.drawn).pc = s.pc := rfl
@[simp] theorem State.idx_drawn (s : State) : (s.drawn).idx = s.idx := rfl
@[simp] theorem State.sp_drawn (s : State) : (s.drawn).sp = s.sp := rfl
@[simp] theorem State.stack_drawn (s : State) : (s.drawn).stack = s.stack := rfl
@[simp] theorem State.mem_drawn (s : State) : (s.drawn).mem = s.mem := rfl
@[simp] theorem State.fb_drawn (s : State) : (s.drawn).fb = s.fb := rfl
@[simp] theorem State.keys_drawn (s : State) : (s.drawn).keys = s.keys := rfl
@[simp] theorem State.dt_drawn (s : State) : (s.drawn).dt = s.dt := rfl
@[simp] theorem State.st_drawn (s : State) : (s.drawn).st = s.st := rfl
@[simp] theorem State.waiting_drawn (s : State) : (s.drawn).waiting = s.waiting := rfl
@[simp] theorem State.waitX_drawn (s : State) : (s.drawn).waitX = s.waitX := rfl
@[simp] theorem State.halted_drawn (s : State) : (s.drawn).halted = s.halted := rfl
@[simp] theorem State.errCode_drawn (s : State) : (s.drawn).errCode = s.errCode := rfl
@[simp] theorem State.errOpcode_drawn (s : State) : (s.drawn).errOpcode = s.errOpcode := rfl
@[simp] theorem State.errPc_drawn (s : State) : (s.drawn).errPc = s.errPc := rfl
@[simp] theorem State.loadErr_drawn (s : State) : (s.drawn).loadErr = s.loadErr := rfl
@[simp] theorem State.params_drawn (s : State) : (s.drawn).params = s.params := rfl
@[simp] theorem State.draws_drawn (s : State) : (s.drawn).draws = s.draws + 1 := rfl
@[simp] theorem State.schedule_drawn (s : State) : (s.drawn).schedule = s.schedule := rfl

@[simp] theorem State.reg_drawn (s : State) (r : Reg) : (s.drawn).reg r = s.reg r := rfl
@[simp] theorem State.readByte_drawn (s : State) (n : Nat) : (s.drawn).readByte n = s.readByte n := rfl

/-! ### setFb -/

@[simp] theorem State.v_setFb (s : State) (d : Display) : (s.setFb d).v = s.v := rfl
@[simp] theorem State.pc_setFb (s : State) (d : Display) : (s.setFb d).pc = s.pc := rfl
@[simp] theorem State.idx_setFb (s : State) (d : Display) : (s.setFb d).idx = s.idx := rfl
@[simp] theorem State.sp_setFb (s : State) (d : Display) : (s.setFb d).sp = s.sp := rfl
@[simp] theorem State.stack_setFb (s : State) (d : Display) : (s.setFb d).stack = s.stack := rfl
@[simp] theorem State.mem_setFb (s : State) (d : Display) : (s.setFb d).mem = s.mem := rfl
@[simp] theorem State.fb_setFb (s : State) (d : Display) : (s.setFb d).fb = d := rfl
@[simp] theorem State.keys_setFb (s : State) (d : Display) : (s.setFb d).keys = s.keys := rfl
@[simp] theorem State.dt_setFb (s : State) (d : Display) : (s.setFb d).dt = s.dt := rfl
@[simp] theorem State.st_setFb (s : State) (d : Display) : (s.setFb d).st = s.st := rfl
@[simp] theorem State.waiting_setFb (s : State) (d : Display) : (s.setFb d).waiting = s.waiting := rfl
@[simp] theorem State.waitX_setFb (s : State) (d : Display) : (s.setFb d).waitX = s.waitX := rfl
@[simp] theorem State.halted_setFb (s : State) (d : Display) : (s.setFb d).halted = s.halted := rfl
@[simp] theorem State.errCode_setFb (s : State) (d : Display) : (s.setFb d).errCode = s.errCode := rfl
@[simp] theorem State.errOpcode_setFb (s : State) (d : Display) : (s.setFb d).errOpcode = s.errOpcode := rfl
@[simp] theorem State.errPc_setFb (s : State) (d : Display) : (s.setFb d).errPc = s.errPc := rfl
@[simp] theorem State.loadErr_setFb (s : State) (d : Display) : (s.setFb d).loadErr = s.loadErr := rfl
@[simp] theorem State.params_setFb (s : State) (d : Display) : (s.setFb d).params = s.params := rfl
@[simp] theorem State.draws_setFb (s : State) (d : Display) : (s.setFb d).draws = s.draws := rfl
@[simp] theorem State.schedule_setFb (s : State) (d : Display) : (s.setFb d).schedule = s.schedule := rfl

@[simp] theorem State.reg_setFb (s : State) (d : Display) (r : Reg) : (s.setFb d).reg r = s.reg r := rfl
@[simp] theorem State.readByte_setFb (s : State) (d : Display) (n : Nat) : (s.setFb d).readByte n = s.readByte n := rfl

/-! ### awaitKey -/

@[simp] theorem State.v_awaitKey (s : State) (x : Reg) : (s.awaitKey x).v = s.v := rfl
@[simp] theorem State.pc_awaitKey (s : State) (x : Reg) : (s.awaitKey x).pc = s.pc := rfl
@[simp] theorem State.idx_awaitKey (s : State) (x : Reg) : (s.awaitKey x).idx = s.idx := rfl
@[simp] theorem State.sp_awaitKey (s : State) (x : Reg) : (s.awaitKey x).sp = s.sp := rfl
@[simp] theorem State.stack_awaitKey (s : State) (x : Reg) : (s.awaitKey x).stack = s.stack := rfl
@[simp] theorem State.mem_awaitKey (s : State) (x : Reg) : (s.awaitKey x).mem = s.mem := rfl
@[simp] theorem State.fb_awaitKey (s : State) (x : Reg) : (s.awaitKey x).fb = s.fb := rfl
@[simp] theorem State.keys_awaitKey (s : State) (x : Reg) : (s.awaitKey x).keys = s.keys := rfl
@[simp] theorem State.dt_awaitKey (s : State) (x : Reg) : (s.awaitKey x).dt = s.dt := rfl
@[simp] theorem State.st_awaitKey (s : State) (x : Reg) : (s.awaitKey x).st = s.st := rfl
@[simp] theorem State.waiting_awaitKey (s : State) (x : Reg) : (s.awaitKey x).waiting = true := rfl
@[simp] theorem State.waitX_awaitKey (s : State) (x : Reg) : (s.awaitKey x).waitX = x := rfl
@[simp] theorem State.halted_awaitKey (s : State) (x : Reg) : (s.awaitKey x).halted = s.halted := rfl
@[simp] theorem State.errCode_awaitKey (s : State) (x : Reg) : (s.awaitKey x).errCode = s.errCode := rfl
@[simp] theorem State.errOpcode_awaitKey (s : State) (x : Reg) : (s.awaitKey x).errOpcode = s.errOpcode := rfl
@[simp] theorem State.errPc_awaitKey (s : State) (x : Reg) : (s.awaitKey x).errPc = s.errPc := rfl
@[simp] theorem State.loadErr_awaitKey (s : State) (x : Reg) : (s.awaitKey x).loadErr = s.loadErr := rfl
@[simp] theorem State.params_awaitKey (s : State) (x : Reg) : (s.awaitKey x).params = s.params := rfl
@[simp] theorem State.draws_awaitKey (s : State) (x : Reg) : (s.awaitKey x).draws = s.draws := rfl
@[simp] theorem State.schedule_awaitKey (s : State) (x : Reg) : (s.awaitKey x).schedule = s.schedule := rfl

@[simp] theorem State.reg_awaitKey (s : State) (x : Reg) (r : Reg) : (s.awaitKey x).reg r = s.reg r := rfl
@[simp] theorem State.readByte_awaitKey (s : State) (x : Reg) (n : Nat) : (s.awaitKey x).readByte n = s.readByte n := rfl

/-! ### raise -/

@[simp] theorem State.v_raise (s : State) (c : Cause) (w : Word) : (s.raise c w).v = s.v := rfl
@[simp] theorem State.pc_raise (s : State) (c : Cause) (w : Word) : (s.raise c w).pc = s.pc := rfl
@[simp] theorem State.idx_raise (s : State) (c : Cause) (w : Word) : (s.raise c w).idx = s.idx := rfl
@[simp] theorem State.sp_raise (s : State) (c : Cause) (w : Word) : (s.raise c w).sp = s.sp := rfl
@[simp] theorem State.stack_raise (s : State) (c : Cause) (w : Word) : (s.raise c w).stack = s.stack := rfl
@[simp] theorem State.mem_raise (s : State) (c : Cause) (w : Word) : (s.raise c w).mem = s.mem := rfl
@[simp] theorem State.fb_raise (s : State) (c : Cause) (w : Word) : (s.raise c w).fb = s.fb := rfl
@[simp] theorem State.keys_raise (s : State) (c : Cause) (w : Word) : (s.raise c w).keys = s.keys := rfl
@[simp] theorem State.dt_raise (s : State) (c : Cause) (w : Word) : (s.raise c w).dt = s.dt := rfl
@[simp] theorem State.st_raise (s : State) (c : Cause) (w : Word) : (s.raise c w).st = s.st := rfl
@[simp] theorem State.waiting_raise (s : State) (c : Cause) (w : Word) : (s.raise c w).waiting = s.waiting := rfl
@[simp] theorem State.waitX_raise (s : State) (c : Cause) (w : Word) : (s.raise c w).waitX = s.waitX := rfl
@[simp] theorem State.halted_raise (s : State) (c : Cause) (w : Word) : (s.raise c w).halted = true := rfl
@[simp] theorem State.errCode_raise (s : State) (c : Cause) (w : Word) : (s.raise c w).errCode = c.code := rfl
@[simp] theorem State.errOpcode_raise (s : State) (c : Cause) (w : Word) : (s.raise c w).errOpcode = w := rfl
@[simp] theorem State.errPc_raise (s : State) (c : Cause) (w : Word) : (s.raise c w).errPc = s.pc := rfl
@[simp] theorem State.loadErr_raise (s : State) (c : Cause) (w : Word) : (s.raise c w).loadErr = s.loadErr := rfl
@[simp] theorem State.params_raise (s : State) (c : Cause) (w : Word) : (s.raise c w).params = s.params := rfl
@[simp] theorem State.draws_raise (s : State) (c : Cause) (w : Word) : (s.raise c w).draws = s.draws := rfl
@[simp] theorem State.schedule_raise (s : State) (c : Cause) (w : Word) : (s.raise c w).schedule = s.schedule := rfl

@[simp] theorem State.reg_raise (s : State) (c : Cause) (w : Word) (r : Reg) : (s.raise c w).reg r = s.reg r := rfl
@[simp] theorem State.readByte_raise (s : State) (c : Cause) (w : Word) (n : Nat) : (s.raise c w).readByte n = s.readByte n := rfl

/-! ### writeByte -/

@[simp] theorem State.v_writeByte (s : State) (a : Nat) (b : Byte) : (s.writeByte a b).v = s.v := rfl
@[simp] theorem State.pc_writeByte (s : State) (a : Nat) (b : Byte) : (s.writeByte a b).pc = s.pc := rfl
@[simp] theorem State.idx_writeByte (s : State) (a : Nat) (b : Byte) : (s.writeByte a b).idx = s.idx := rfl
@[simp] theorem State.sp_writeByte (s : State) (a : Nat) (b : Byte) : (s.writeByte a b).sp = s.sp := rfl
@[simp] theorem State.stack_writeByte (s : State) (a : Nat) (b : Byte) : (s.writeByte a b).stack = s.stack := rfl
@[simp] theorem State.mem_writeByte (s : State) (a : Nat) (b : Byte) : (s.writeByte a b).mem = Memory.write s.params.fontTable s.mem a b := rfl
@[simp] theorem State.fb_writeByte (s : State) (a : Nat) (b : Byte) : (s.writeByte a b).fb = s.fb := rfl
@[simp] theorem State.keys_writeByte (s : State) (a : Nat) (b : Byte) : (s.writeByte a b).keys = s.keys := rfl
@[simp] theorem State.dt_writeByte (s : State) (a : Nat) (b : Byte) : (s.writeByte a b).dt = s.dt := rfl
@[simp] theorem State.st_writeByte (s : State) (a : Nat) (b : Byte) : (s.writeByte a b).st = s.st := rfl
@[simp] theorem State.waiting_writeByte (s : State) (a : Nat) (b : Byte) : (s.writeByte a b).waiting = s.waiting := rfl
@[simp] theorem State.waitX_writeByte (s : State) (a : Nat) (b : Byte) : (s.writeByte a b).waitX = s.waitX := rfl
@[simp] theorem State.halted_writeByte (s : State) (a : Nat) (b : Byte) : (s.writeByte a b).halted = s.halted := rfl
@[simp] theorem State.errCode_writeByte (s : State) (a : Nat) (b : Byte) : (s.writeByte a b).errCode = s.errCode := rfl
@[simp] theorem State.errOpcode_writeByte (s : State) (a : Nat) (b : Byte) : (s.writeByte a b).errOpcode = s.errOpcode := rfl
@[simp] theorem State.errPc_writeByte (s : State) (a : Nat) (b : Byte) : (s.writeByte a b).errPc = s.errPc := rfl
@[simp] theorem State.loadErr_writeByte (s : State) (a : Nat) (b : Byte) : (s.writeByte a b).loadErr = s.loadErr := rfl
@[simp] theorem State.params_writeByte (s : State) (a : Nat) (b : Byte) : (s.writeByte a b).params = s.params := rfl
@[simp] theorem State.draws_writeByte (s : State) (a : Nat) (b : Byte) : (s.writeByte a b).draws = s.draws := rfl
@[simp] theorem State.schedule_writeByte (s : State) (a : Nat) (b : Byte) : (s.writeByte a b).schedule = s.schedule := rfl

@[simp] theorem State.reg_writeByte (s : State) (a : Nat) (b : Byte) (r : Reg) : (s.writeByte a b).reg r = s.reg r := rfl

/-! ### skipIf -/

@[simp] theorem State.v_skipIf (s : State) (c : Bool) : (s.skipIf c).v = s.v := rfl
@[simp] theorem State.pc_skipIf (s : State) (c : Bool) : (s.skipIf c).pc = if c then s.pc + 4 else s.pc + 2 := rfl
@[simp] theorem State.idx_skipIf (s : State) (c : Bool) : (s.skipIf c).idx = s.idx := rfl
@[simp] theorem State.sp_skipIf (s : State) (c : Bool) : (s.skipIf c).sp = s.sp := rfl
@[simp] theorem State.stack_skipIf (s : State) (c : Bool) : (s.skipIf c).stack = s.stack := rfl
@[simp] theorem State.mem_skipIf (s : State) (c : Bool) : (s.skipIf c).mem = s.mem := rfl
@[simp] theorem State.fb_skipIf (s : State) (c : Bool) : (s.skipIf c).fb = s.fb := rfl
@[simp] theorem State.keys_skipIf (s : State) (c : Bool) : (s.skipIf c).keys = s.keys := rfl
@[simp] theorem State.dt_skipIf (s : State) (c : Bool) : (s.skipIf c).dt = s.dt := rfl
@[simp] theorem State.st_skipIf (s : State) (c : Bool) : (s.skipIf c).st = s.st := rfl
@[simp] theorem State.waiting_skipIf (s : State) (c : Bool) : (s.skipIf c).waiting = s.waiting := rfl
@[simp] theorem State.waitX_skipIf (s : State) (c : Bool) : (s.skipIf c).waitX = s.waitX := rfl
@[simp] theorem State.halted_skipIf (s : State) (c : Bool) : (s.skipIf c).halted = s.halted := rfl
@[simp] theorem State.errCode_skipIf (s : State) (c : Bool) : (s.skipIf c).errCode = s.errCode := rfl
@[simp] theorem State.errOpcode_skipIf (s : State) (c : Bool) : (s.skipIf c).errOpcode = s.errOpcode := rfl
@[simp] theorem State.errPc_skipIf (s : State) (c : Bool) : (s.skipIf c).errPc = s.errPc := rfl
@[simp] theorem State.loadErr_skipIf (s : State) (c : Bool) : (s.skipIf c).loadErr = s.loadErr := rfl
@[simp] theorem State.params_skipIf (s : State) (c : Bool) : (s.skipIf c).params = s.params := rfl
@[simp] theorem State.draws_skipIf (s : State) (c : Bool) : (s.skipIf c).draws = s.draws := rfl
@[simp] theorem State.schedule_skipIf (s : State) (c : Bool) : (s.skipIf c).schedule = s.schedule := rfl

@[simp] theorem State.reg_skipIf (s : State) (c : Bool) (r : Reg) : (s.skipIf c).reg r = s.reg r := rfl
@[simp] theorem State.readByte_skipIf (s : State) (c : Bool) (n : Nat) : (s.skipIf c).readByte n = s.readByte n := rfl

/-- R6, R10: a register reads what was last written to it, and a write leaves every other register alone. -/
@[simp] theorem State.reg_setReg (s : State) (x : Reg) (b : Byte) (r : Reg) :
    (s.setReg x b).reg r = if r = x then b else s.reg r := by
  simp only [State.reg, State.setReg, Vector.getElem_set]
  have : (x.toNat = r.toNat) ↔ r = x := by
    rw [← BitVec.toNat_inj]; exact eq_comm
  simp only [this]

theorem State.reg_setReg_self (s : State) (x : Reg) (b : Byte) : (s.setReg x b).reg x = b := by simp

theorem State.reg_setReg_ne (s : State) (x r : Reg) (b : Byte) (h : r ≠ x) : (s.setReg x b).reg r = s.reg r := by
  simp [h]

end Sys2Proof.Machine
end

