-- ==== Sys2Proof/Laws/Drawing.lean ====
section
/-! SUPPORT. What the display operations do. -/

namespace Sys2Proof.Machine

/-- R20: a flip inverts its own pixel and leaves every other alone. -/
theorem Display.pixel_flip (d : Display) (x : Fin 64) (y : Fin 32) (px : Fin 64) (py : Fin 32) :
    Display.pixel (Display.flip d x y) px py =
      if px = x ∧ py = y then !Display.pixel d px py else Display.pixel d px py := by
  unfold Display.flip Display.pixel
  by_cases hy : py = y
  · subst hy
    by_cases hx : px = x
    · subst hx; simp
    · have : x.val ≠ px.val := fun e => hx (Fin.ext e.symm)
      simp [hx, this]
  · have : y.val ≠ py.val := fun e => hy (Fin.ext e.symm)
    simp [hy, this]

/-- R140: every pixel of the cleared display is off. -/
theorem Display.pixel_clear (x : Fin 64) (y : Fin 32) : Display.pixel Display.clear x y = false := by
  simp [Display.pixel, Display.clear]

/-- Two displays with the same pixels are equal. -/
theorem Display.ext_pixel (d e : Display) (h : ∀ x y, Display.pixel d x y = Display.pixel e x y) : d = e := by
  apply Vector.ext
  intro i hi
  apply Vector.ext
  intro j hj
  exact h ⟨j, hj⟩ ⟨i, hi⟩

/-- A sprite bit flips its pixel when it is 1. -/
theorem pixel_drawBit (qx : Fin 64) (qy : Fin 32) (on : Bool) (dh : Display × Bool) (px : Fin 64) (py : Fin 32) :
    Display.pixel (drawBit qx qy on dh).1 px py =
      (Display.pixel dh.1 px py ^^ (on && decide (px = qx ∧ py = qy))) := by
  cases on
  · simp [drawBit]
  · simp only [drawBit, if_true, Display.pixel_flip]
    by_cases h : px = qx ∧ py = qy <;> simp [h]

/-- A sprite bit notes a collision when it is 1 and its pixel is on. -/
theorem hit_drawBit (qx : Fin 64) (qy : Fin 32) (on : Bool) (dh : Display × Bool) :
    (drawBit qx qy on dh).2 = (dh.2 || (on && Display.pixel dh.1 qx qy)) := by
  cases on <;> simp [drawBit]

end Sys2Proof.Machine
end

