-- ==== Sys2Proof/Laws/Memory.lean ====
section
/-! SUPPORT. What memory operations do: a read after a write, at the same place and elsewhere, and the canonical form kept. -/

namespace Sys2Proof.Machine

theorem Memory.find_insert (m : Memory) (a b : Nat) (v : Byte) :
    Memory.find (Memory.insert a v m) b = if b = a then some v else Memory.find m b := by
  induction m with
  | nil => simp [Memory.insert, Memory.find, eq_comm]
  | cons c m ih =>
    obtain ⟨d, w⟩ := c
    simp only [Memory.insert]
    split
    · simp [Memory.find, eq_comm]
    · split
      · subst_vars
        by_cases h : b = d
        · simp [Memory.find, h]
        · simp [Memory.find, h, Ne.symm h]
      · simp only [Memory.find, ih]
        by_cases h : d = b
        · subst h
          have : d ≠ a := by omega
          simp [this]
        · simp [h]

theorem Memory.find_erase (m : Memory) (a b : Nat) :
    Memory.find (Memory.erase a m) b = if b = a then none else Memory.find m b := by
  induction m with
  | nil => simp [Memory.erase, Memory.find]
  | cons c m ih =>
    obtain ⟨d, w⟩ := c
    simp only [Memory.erase]
    split
    · subst_vars
      rw [ih]
      by_cases h : b = d
      · simp [h]
      · simp [Memory.find, h, Ne.symm h]
    · simp only [Memory.find, ih]
      by_cases h : d = b
      · subst h
        simp [*]
      · simp [h]

/-- A read after a write gives the byte written at the same address and what was there before anywhere else. -/
theorem Memory.read_write (font : Vector Byte 80) (m : Memory) (a b : Nat) (v : Byte) :
    Memory.read font (Memory.write font m a v) b = if b = a then v else Memory.read font m b := by
  unfold Memory.read Memory.write
  split
  · rw [Memory.find_erase]
    by_cases h : b = a <;> simp_all
  · rw [Memory.find_insert]
    by_cases h : b = a <;> simp [h]

theorem Memory.above_insert (m : Memory) (lo a : Nat) (v : Byte) (ha : lo < a) (h : Memory.above lo m = true) :
    Memory.above lo (Memory.insert a v m) = true := by
  induction m with
  | nil => simp [Memory.insert, Memory.above, ha]
  | cons c m ih =>
    obtain ⟨d, w⟩ := c
    simp only [Memory.above, List.all_cons, Bool.and_eq_true, decide_eq_true_eq] at h ih ⊢
    simp only [Memory.insert]
    split
    · simp only [List.all_cons, Bool.and_eq_true, decide_eq_true_eq]
      exact ⟨ha, h⟩
    · split
      · simp only [List.all_cons, Bool.and_eq_true, decide_eq_true_eq]
        exact ⟨ha, h.2⟩
      · simp only [List.all_cons, Bool.and_eq_true, decide_eq_true_eq]
        exact ⟨h.1, ih h.2⟩

theorem Memory.above_mono (m : Memory) (lo hi : Nat) (hlt : lo ≤ hi) (h : Memory.above hi m = true) :
    Memory.above lo m = true := by
  simp only [Memory.above, List.all_eq_true, decide_eq_true_eq] at h ⊢
  intro c hc
  have := h c hc
  omega

theorem Memory.rising_insert (m : Memory) (a : Nat) (v : Byte) (h : Memory.rising m = true) :
    Memory.rising (Memory.insert a v m) = true := by
  induction m with
  | nil => simp [Memory.insert, Memory.rising, Memory.above]
  | cons c m ih =>
    obtain ⟨d, w⟩ := c
    simp only [Memory.rising, Bool.and_eq_true] at h
    simp only [Memory.insert]
    split
    · rename_i hlt
      simp only [Memory.rising, Bool.and_eq_true]
      refine ⟨?_, h⟩
      simp only [Memory.above, List.all_cons, Bool.and_eq_true, decide_eq_true_eq]
      exact ⟨hlt, Memory.above_mono m a d (by omega) h.1⟩
    · split
      · subst_vars
        simpa only [Memory.rising, Bool.and_eq_true] using h
      · simp only [Memory.rising, Bool.and_eq_true]
        exact ⟨Memory.above_insert m d a v (by omega) h.1, ih h.2⟩

theorem Memory.above_erase (m : Memory) (lo a : Nat) (h : Memory.above lo m = true) :
    Memory.above lo (Memory.erase a m) = true := by
  induction m with
  | nil => simpa [Memory.erase] using h
  | cons c m ih =>
    obtain ⟨d, w⟩ := c
    simp only [Memory.above, List.all_cons, Bool.and_eq_true, decide_eq_true_eq] at h ih ⊢
    simp only [Memory.erase]
    split
    · exact ih h.2
    · simp only [List.all_cons, Bool.and_eq_true, decide_eq_true_eq]
      exact ⟨h.1, ih h.2⟩

theorem Memory.rising_erase (m : Memory) (a : Nat) (h : Memory.rising m = true) :
    Memory.rising (Memory.erase a m) = true := by
  induction m with
  | nil => simp [Memory.erase, Memory.rising]
  | cons c m ih =>
    obtain ⟨d, w⟩ := c
    simp only [Memory.rising, Bool.and_eq_true] at h
    simp only [Memory.erase]
    split
    · exact ih h.2
    · simp only [Memory.rising, Bool.and_eq_true]
      exact ⟨Memory.above_erase m d a h.1, ih h.2⟩

theorem Memory.all_insert (p : Host.Cell → Bool) (m : Memory) (a : Nat) (v : Byte) (hp : p (a, v) = true)
    (h : m.all p = true) : (Memory.insert a v m).all p = true := by
  induction m with
  | nil => simp [Memory.insert, hp]
  | cons c m ih =>
    obtain ⟨d, w⟩ := c
    have h' := h
    simp only [List.all_cons, Bool.and_eq_true] at h
    simp only [Memory.insert]
    split
    · rw [List.all_cons, hp, h']; rfl
    · split
      · rw [List.all_cons, hp, h.2]; rfl
      · rw [List.all_cons, h.1, ih h.2]; rfl

theorem Memory.all_erase (p : Host.Cell → Bool) (m : Memory) (a : Nat) (h : m.all p = true) :
    (Memory.erase a m).all p = true := by
  induction m with
  | nil => simp [Memory.erase]
  | cons c m ih =>
    obtain ⟨d, w⟩ := c
    simp only [List.all_cons, Bool.and_eq_true] at h
    simp only [Memory.erase]
    split
    · exact ih h.2
    · rw [List.all_cons, h.1, ih h.2]; rfl

/-- A write inside the address space keeps the canonical form. -/
theorem Memory.wf_write (font : Vector Byte 80) (m : Memory) (a : Nat) (v : Byte) (ha : a < 4096)
    (h : Memory.wf font m = true) : Memory.wf font (Memory.write font m a v) = true := by
  simp only [Memory.wf, Bool.and_eq_true] at h ⊢
  unfold Memory.write
  split
  · exact ⟨Memory.rising_erase m a h.1, Memory.all_erase _ m a h.2⟩
  · rename_i hv
    exact ⟨Memory.rising_insert m a v h.1, Memory.all_insert _ m a v (by simp [ha, hv]) h.2⟩

/-- The memory of the state after reset has the canonical form. -/
theorem Memory.wf_nil (font : Vector Byte 80) : Memory.wf font [] = true := by
  simp [Memory.wf, Memory.rising]

/-- `MemRead` after `MemWrite`. -/
@[simp] theorem State.readByte_writeByte (s : State) (a b : Nat) (v : Byte) :
    (s.writeByte a v).readByte b = if b = a then v else s.readByte b :=
  Memory.read_write s.params.fontTable s.mem a b v

/-- Before anything is written, an address reads as its contents after reset (R18). -/
theorem State.readByte_of_empty (s : State) (h : s.mem = []) (a : Nat) :
    s.readByte a = resetByte s.params.fontTable a := by
  simp [State.readByte, Memory.read, Memory.find, h]

theorem dataAddr_lt (base : Word) (k : Nat) : dataAddr base k < 4096 := Nat.mod_lt _ (by decide)

end Sys2Proof.Machine
end

