-- ==== Sys2Proof/Laws/Ops.lean ====
section
/-! SUPPORT. For each shared operation, what it can do: cite these instead of unfolding it. -/

namespace Sys2Proof.Machine

/-! ### Call stack -/

/-- 2NNN's stack operation below 16 entries. -/
theorem State.push_of_lt (s : State) (a w : Word) (k : State → Result) (h : s.sp.toNat < 16) :
    s.push a w k = k { s with stack := s.stack.set s.sp.toNat a h, sp := s.sp + 1 } := by
  simp [State.push, h]

theorem State.push_of_full (s : State) (a w : Word) (k : State → Result) (h : s.sp = 16) :
    s.push a w k = .next (s.raise .stackOverflow w) := by
  simp [State.push, h]

theorem State.push_of_gt (s : State) (a w : Word) (k : State → Result) (h : 16 < s.sp.toNat) :
    s.push a w k = .fault .stackPointerOutOfRange := by
  have h2 : s.sp ≠ 16 := by intro e; rw [e] at h; exact absurd h (by decide)
  rw [State.push, dif_neg (by omega), if_neg h2]

theorem State.pop_of_zero (s : State) (w : Word) (k : Word → State → Result) (h : s.sp = 0) :
    s.pop w k = .next (s.raise .stackUnderflow w) := by
  simp [State.pop, h]

/-- 00EE's stack operation with 1 to 16 entries. -/
theorem State.pop_of_pos (s : State) (w : Word) (k : Word → State → Result) (h0 : 0 < s.sp.toNat)
    (h : s.sp.toNat - 1 < 16) :
    s.pop w k = k (s.stack[s.sp.toNat - 1]'h) { s with sp := s.sp - 1 } := by
  have h2 : s.sp ≠ 0 := by intro e; rw [e] at h0; exact absurd h0 (by decide)
  rw [State.pop, if_neg h2, dif_pos h]

theorem State.pop_of_gt (s : State) (w : Word) (k : Word → State → Result) (h : 16 < s.sp.toNat) :
    s.pop w k = .fault .stackPointerOutOfRange := by
  have h2 : s.sp ≠ 0 := by intro e; rw [e] at h; exact absurd h (by decide)
  rw [State.pop, if_neg h2, dif_neg (by omega)]

/-- Everything a push can do: continue below 16, StackOverflowError at 16, the model's stop above. -/
theorem State.push_cases (s : State) (a w : Word) (k : State → Result) :
    (∃ h : s.sp.toNat < 16, s.push a w k = k { s with stack := s.stack.set s.sp.toNat a h, sp := s.sp + 1 }) ∨
    (s.sp = 16 ∧ s.push a w k = .next (s.raise .stackOverflow w)) ∨
    (16 < s.sp.toNat ∧ s.push a w k = .fault .stackPointerOutOfRange) := by
  rcases lt_trichotomy s.sp.toNat 16 with h | h | h
  · exact .inl ⟨h, s.push_of_lt a w k h⟩
  · have h16 : s.sp = 16 := BitVec.eq_of_toNat_eq h
    exact .inr (.inl ⟨h16, s.push_of_full a w k h16⟩)
  · exact .inr (.inr ⟨h, s.push_of_gt a w k h⟩)

/-- Everything a pop can do: continue from 1 to 16, StackUnderflowError at 0, the model's stop above 16. -/
theorem State.pop_cases (s : State) (w : Word) (k : Word → State → Result) :
    (∃ h : s.sp.toNat - 1 < 16, 0 < s.sp.toNat ∧
      s.pop w k = k (s.stack[s.sp.toNat - 1]'h) { s with sp := s.sp - 1 }) ∨
    (s.sp = 0 ∧ s.pop w k = .next (s.raise .stackUnderflow w)) ∨
    (16 < s.sp.toNat ∧ s.pop w k = .fault .stackPointerOutOfRange) := by
  by_cases h0 : s.sp = 0
  · exact .inr (.inl ⟨h0, s.pop_of_zero w k h0⟩)
  · have hp : 0 < s.sp.toNat := Nat.pos_of_ne_zero fun h => h0 (BitVec.eq_of_toNat_eq h)
    by_cases h : 16 < s.sp.toNat
    · exact .inr (.inr ⟨h, s.pop_of_gt w k h⟩)
    · exact .inl ⟨by omega, hp, s.pop_of_pos w k hp (by omega)⟩

/-! ### Fault entry -/

/-- R168: fault entry writes the four latches and nothing else. -/
theorem State.raise_faultEntered (s : State) (c : Cause) (w : Word) : FaultEntered s (s.raise c w) c.code w := by
  refine ⟨rfl, rfl, rfl, rfl, rfl, rfl, rfl, ?_⟩
  intro p hp
  cases p <;> simp_all [SamePart]

/-! ### Storing bytes -/

/-- Storing bytes changes memory alone. -/
theorem State.storeBytes_eq (s : State) (base : Word) (k : Nat) (bs : List Byte) :
    ∃ m, s.storeBytes base k bs = { s with mem := m } := by
  induction bs generalizing s k with
  | nil => exact ⟨s.mem, rfl⟩
  | cons b bs ih =>
    obtain ⟨m, hm⟩ := ih (s.writeByte (dataAddr base k) b) (k + 1)
    exact ⟨m, by rw [State.storeBytes, hm]; rfl⟩

/-- An address outside the stored bytes reads as before. -/
theorem State.readByte_storeBytes_outside (s : State) (base : Word) (k : Nat) (bs : List Byte) (a : Nat)
    (h : ∀ j, j < bs.length → a ≠ dataAddr base (k + j)) :
    (s.storeBytes base k bs).readByte a = s.readByte a := by
  induction bs generalizing s k with
  | nil => rfl
  | cons b bs ih =>
    rw [State.storeBytes, ih]
    · have := h 0 (by simp)
      simp only [Nat.add_zero] at this
      simp [this]
    · intro j hj
      have := h (j + 1) (by simpa using hj)
      rwa [show k + (j + 1) = k + 1 + j by omega] at this

/-- The addresses of fewer than 4097 consecutive data bytes are different. -/
theorem dataAddr_inj (base : Word) (j k : Nat) (hlt : j < k) (hk : k < j + 4096) :
    dataAddr base j ≠ dataAddr base k := by
  unfold dataAddr
  omega

/-- A stored byte reads back, when the bytes do not go round the whole memory. -/
theorem State.readByte_storeBytes (s : State) (base : Word) (k : Nat) (bs : List Byte) (j : Nat)
    (hj : j < bs.length) (hlen : bs.length ≤ 4096) :
    (s.storeBytes base k bs).readByte (dataAddr base (k + j)) = bs[j] := by
  induction bs generalizing s k j with
  | nil => simp at hj
  | cons b bs ih =>
    rw [State.storeBytes]
    cases j with
    | zero =>
      rw [State.readByte_storeBytes_outside]
      · simp
      · intro i hi
        simp only [List.length_cons] at hlen
        exact dataAddr_inj base (k + 0) (k + 1 + i) (by omega) (by omega)
    | succ j =>
      simp only [List.length_cons] at hj hlen
      have := ih (s.writeByte (dataAddr base k) b) (k + 1) j (by omega) (by omega)
      rw [show k + (j + 1) = k + 1 + j by omega, this]
      rfl

/-- Storing bytes keeps the canonical form of memory. -/
theorem State.wf_storeBytes (s : State) (base : Word) (k : Nat) (bs : List Byte)
    (h : Memory.wf s.params.fontTable s.mem = true) :
    Memory.wf s.params.fontTable (s.storeBytes base k bs).mem = true := by
  induction bs generalizing s k with
  | nil => exact h
  | cons b bs ih =>
    exact ih (s.writeByte (dataAddr base k) b) (k + 1)
      (Memory.wf_write _ _ _ _ (dataAddr_lt base k) h)

theorem State.length_firstRegs (s : State) (n : Nat) : (s.firstRegs n).length = n := by
  simp [State.firstRegs]

theorem State.getElem_firstRegs (s : State) (n j : Nat) (h : j < (s.firstRegs n).length) :
    (s.firstRegs n)[j] = s.reg (BitVec.ofNat 4 j) := by
  simp [State.firstRegs]

/-! ### Loading registers -/

/-- Loading registers changes registers alone. -/
theorem State.loadRegs_eq (s : State) (base : Word) (n : Nat) : ∃ w, s.loadRegs base n = { s with v := w } := by
  induction n with
  | zero => exact ⟨s.v, rfl⟩
  | succ n ih =>
    obtain ⟨w, hw⟩ := ih
    exact ⟨_, by rw [State.loadRegs, hw]; rfl⟩

theorem State.readByte_loadRegs (s : State) (base : Word) (n a : Nat) :
    (s.loadRegs base n).readByte a = s.readByte a := by
  obtain ⟨w, hw⟩ := State.loadRegs_eq s base n
  rw [hw]; rfl

/-- Register `r` is loaded from its own offset when it is among the first `n`, and unchanged otherwise. -/
theorem State.reg_loadRegs (s : State) (base : Word) (n : Nat) (hn : n ≤ 16) (r : Reg) :
    (s.loadRegs base n).reg r = if r.toNat < n then s.readByte (dataAddr base r.toNat) else s.reg r := by
  induction n with
  | zero => simp [State.loadRegs]
  | succ n ih =>
    simp only [State.loadRegs, State.reg_setReg, State.readByte_loadRegs]
    have hr : (r = BitVec.ofNat 4 n) ↔ r.toNat = n := by
      rw [← BitVec.toNat_inj, BitVec.toNat_ofNat, Nat.mod_eq_of_lt (by omega)]
    by_cases h : r.toNat = n
    · rw [if_pos (hr.mpr h), if_pos (by omega), h]
    · rw [if_neg (fun e => h (hr.mp e)), ih (by omega)]
      by_cases h2 : r.toNat < n
      · rw [if_pos h2, if_pos (by omega)]
      · rw [if_neg h2, if_neg (by omega)]

/-! ### Flags -/

/-- The flag survives a destination of 15, every other register than the two is unchanged (R110). -/
theorem State.reg_writeThenFlag (s : State) (x : Reg) (b : Byte) (f : Bool) (r : Reg) :
    (s.writeThenFlag x b f).reg r = if r = vf then flagByte f else if r = x then b else s.reg r := by
  simp [State.writeThenFlag]

theorem State.writeThenFlag_eq (s : State) (x : Reg) (b : Byte) (f : Bool) :
    ∃ w, s.writeThenFlag x b f = { s with v := w } := ⟨_, rfl⟩

theorem toNat_lowBit (a : Byte) : (lowBit a).toNat = a.toNat % 2 := by
  simp [lowBit, BitVec.toNat_and, Nat.and_one_is_mod]

theorem toNat_highBit (a : Byte) : (highBit a).toNat = a.toNat / 128 := by
  simp only [highBit, BitVec.toNat_and, BitVec.toNat_ushiftRight, Nat.shiftRight_eq_div_pow]
  have := a.isLt
  simp [Nat.and_one_is_mod]
  omega

/-- A shift writes registers alone. -/
theorem State.shiftWithFlag_eq (s : State) (x src : Reg) (f g : Byte → Byte) :
    ∃ w, s.shiftWithFlag x src f g = { s with v := w } := by
  unfold State.shiftWithFlag
  cases s.params.shiftVfOrder <;> exact ⟨_, rfl⟩

end Sys2Proof.Machine
end

