-- ==== Sys2Proof/Laws/PerInstr.lean ====
section
/-! SUPPORT. Per instruction: its row stands in the table of R70 and its encoded word carries that row's `op` nibble, the
first thing the decoder looks at (spec/30_encoding.md R64). -/

namespace Sys2Proof

/-- The encoded word's `op` is the `op` of the instruction's own row, which is a row of the table. -/
def Laws.EncodedOp.Statement (i : Instr) : Prop :=
  rowOf i ∈ opcodeRows ∧ fieldOp (encode i) = fieldOp (rowOf i).bits

theorem Laws.EncodedOp.cls : Laws.EncodedOp.Statement .cls :=
  ⟨by simp [rowOf, opcodeRows], by decide⟩

theorem Laws.EncodedOp.ret : Laws.EncodedOp.Statement .ret :=
  ⟨by simp [rowOf, opcodeRows], by decide⟩

theorem Laws.EncodedOp.jpAddr (nnn : Addr) : Laws.EncodedOp.Statement (.jpAddr nnn) :=
  ⟨by simp [rowOf, opcodeRows], (fieldOp_wordNNN _ _).trans (by simp [rowOf, fieldOp])⟩

theorem Laws.EncodedOp.callAddr (nnn : Addr) : Laws.EncodedOp.Statement (.callAddr nnn) :=
  ⟨by simp [rowOf, opcodeRows], (fieldOp_wordNNN _ _).trans (by simp [rowOf, fieldOp])⟩

theorem Laws.EncodedOp.seByte (x : Reg) (nn : Byte) : Laws.EncodedOp.Statement (.seByte x nn) :=
  ⟨by simp [rowOf, opcodeRows], (fieldOp_wordXNN _ _ _).trans (by simp [rowOf, fieldOp])⟩

theorem Laws.EncodedOp.sneByte (x : Reg) (nn : Byte) : Laws.EncodedOp.Statement (.sneByte x nn) :=
  ⟨by simp [rowOf, opcodeRows], (fieldOp_wordXNN _ _ _).trans (by simp [rowOf, fieldOp])⟩

theorem Laws.EncodedOp.seReg (x y : Reg) : Laws.EncodedOp.Statement (.seReg x y) :=
  ⟨by simp [rowOf, opcodeRows], (fieldOp_wordXYN _ _ _ _).trans (by simp [rowOf, fieldOp])⟩

theorem Laws.EncodedOp.ldByte (x : Reg) (nn : Byte) : Laws.EncodedOp.Statement (.ldByte x nn) :=
  ⟨by simp [rowOf, opcodeRows], (fieldOp_wordXNN _ _ _).trans (by simp [rowOf, fieldOp])⟩

theorem Laws.EncodedOp.addByte (x : Reg) (nn : Byte) : Laws.EncodedOp.Statement (.addByte x nn) :=
  ⟨by simp [rowOf, opcodeRows], (fieldOp_wordXNN _ _ _).trans (by simp [rowOf, fieldOp])⟩

theorem Laws.EncodedOp.ldReg (x y : Reg) : Laws.EncodedOp.Statement (.ldReg x y) :=
  ⟨by simp [rowOf, opcodeRows], (fieldOp_wordXYN _ _ _ _).trans (by simp [rowOf, fieldOp])⟩

theorem Laws.EncodedOp.orReg (x y : Reg) : Laws.EncodedOp.Statement (.orReg x y) :=
  ⟨by simp [rowOf, opcodeRows], (fieldOp_wordXYN _ _ _ _).trans (by simp [rowOf, fieldOp])⟩

theorem Laws.EncodedOp.andReg (x y : Reg) : Laws.EncodedOp.Statement (.andReg x y) :=
  ⟨by simp [rowOf, opcodeRows], (fieldOp_wordXYN _ _ _ _).trans (by simp [rowOf, fieldOp])⟩

theorem Laws.EncodedOp.xorReg (x y : Reg) : Laws.EncodedOp.Statement (.xorReg x y) :=
  ⟨by simp [rowOf, opcodeRows], (fieldOp_wordXYN _ _ _ _).trans (by simp [rowOf, fieldOp])⟩

theorem Laws.EncodedOp.addReg (x y : Reg) : Laws.EncodedOp.Statement (.addReg x y) :=
  ⟨by simp [rowOf, opcodeRows], (fieldOp_wordXYN _ _ _ _).trans (by simp [rowOf, fieldOp])⟩

theorem Laws.EncodedOp.subReg (x y : Reg) : Laws.EncodedOp.Statement (.subReg x y) :=
  ⟨by simp [rowOf, opcodeRows], (fieldOp_wordXYN _ _ _ _).trans (by simp [rowOf, fieldOp])⟩

theorem Laws.EncodedOp.shr (x y : Reg) : Laws.EncodedOp.Statement (.shr x y) :=
  ⟨by simp [rowOf, opcodeRows], (fieldOp_wordXYN _ _ _ _).trans (by simp [rowOf, fieldOp])⟩

theorem Laws.EncodedOp.subn (x y : Reg) : Laws.EncodedOp.Statement (.subn x y) :=
  ⟨by simp [rowOf, opcodeRows], (fieldOp_wordXYN _ _ _ _).trans (by simp [rowOf, fieldOp])⟩

theorem Laws.EncodedOp.shl (x y : Reg) : Laws.EncodedOp.Statement (.shl x y) :=
  ⟨by simp [rowOf, opcodeRows], (fieldOp_wordXYN _ _ _ _).trans (by simp [rowOf, fieldOp])⟩

theorem Laws.EncodedOp.sneReg (x y : Reg) : Laws.EncodedOp.Statement (.sneReg x y) :=
  ⟨by simp [rowOf, opcodeRows], (fieldOp_wordXYN _ _ _ _).trans (by simp [rowOf, fieldOp])⟩

theorem Laws.EncodedOp.ldI (nnn : Addr) : Laws.EncodedOp.Statement (.ldI nnn) :=
  ⟨by simp [rowOf, opcodeRows], (fieldOp_wordNNN _ _).trans (by simp [rowOf, fieldOp])⟩

theorem Laws.EncodedOp.jpV0 (nnn : Addr) : Laws.EncodedOp.Statement (.jpV0 nnn) :=
  ⟨by simp [rowOf, opcodeRows], (fieldOp_wordNNN _ _).trans (by simp [rowOf, fieldOp])⟩

theorem Laws.EncodedOp.rnd (x : Reg) (nn : Byte) : Laws.EncodedOp.Statement (.rnd x nn) :=
  ⟨by simp [rowOf, opcodeRows], (fieldOp_wordXNN _ _ _).trans (by simp [rowOf, fieldOp])⟩

theorem Laws.EncodedOp.drw (x y : Reg) (n : Nat) : Laws.EncodedOp.Statement (.drw x y n) :=
  ⟨by simp [rowOf, opcodeRows], (fieldOp_wordXYN _ _ _ _).trans (by simp [rowOf, fieldOp])⟩

theorem Laws.EncodedOp.skp (x : Reg) : Laws.EncodedOp.Statement (.skp x) :=
  ⟨by simp [rowOf, opcodeRows], (fieldOp_wordXNN _ _ _).trans (by simp [rowOf, fieldOp])⟩

theorem Laws.EncodedOp.sknp (x : Reg) : Laws.EncodedOp.Statement (.sknp x) :=
  ⟨by simp [rowOf, opcodeRows], (fieldOp_wordXNN _ _ _).trans (by simp [rowOf, fieldOp])⟩

theorem Laws.EncodedOp.ldVxDt (x : Reg) : Laws.EncodedOp.Statement (.ldVxDt x) :=
  ⟨by simp [rowOf, opcodeRows], (fieldOp_wordXNN _ _ _).trans (by simp [rowOf, fieldOp])⟩

theorem Laws.EncodedOp.ldVxK (x : Reg) : Laws.EncodedOp.Statement (.ldVxK x) :=
  ⟨by simp [rowOf, opcodeRows], (fieldOp_wordXNN _ _ _).trans (by simp [rowOf, fieldOp])⟩

theorem Laws.EncodedOp.ldDtVx (x : Reg) : Laws.EncodedOp.Statement (.ldDtVx x) :=
  ⟨by simp [rowOf, opcodeRows], (fieldOp_wordXNN _ _ _).trans (by simp [rowOf, fieldOp])⟩

theorem Laws.EncodedOp.ldStVx (x : Reg) : Laws.EncodedOp.Statement (.ldStVx x) :=
  ⟨by simp [rowOf, opcodeRows], (fieldOp_wordXNN _ _ _).trans (by simp [rowOf, fieldOp])⟩

theorem Laws.EncodedOp.addI (x : Reg) : Laws.EncodedOp.Statement (.addI x) :=
  ⟨by simp [rowOf, opcodeRows], (fieldOp_wordXNN _ _ _).trans (by simp [rowOf, fieldOp])⟩

theorem Laws.EncodedOp.ldF (x : Reg) : Laws.EncodedOp.Statement (.ldF x) :=
  ⟨by simp [rowOf, opcodeRows], (fieldOp_wordXNN _ _ _).trans (by simp [rowOf, fieldOp])⟩

theorem Laws.EncodedOp.ldB (x : Reg) : Laws.EncodedOp.Statement (.ldB x) :=
  ⟨by simp [rowOf, opcodeRows], (fieldOp_wordXNN _ _ _).trans (by simp [rowOf, fieldOp])⟩

theorem Laws.EncodedOp.ldMemVx (x : Reg) : Laws.EncodedOp.Statement (.ldMemVx x) :=
  ⟨by simp [rowOf, opcodeRows], (fieldOp_wordXNN _ _ _).trans (by simp [rowOf, fieldOp])⟩

theorem Laws.EncodedOp.ldVxMem (x : Reg) : Laws.EncodedOp.Statement (.ldVxMem x) :=
  ⟨by simp [rowOf, opcodeRows], (fieldOp_wordXNN _ _ _).trans (by simp [rowOf, fieldOp])⟩

end Sys2Proof
end

