-- ==== Sys2Proof/Tests/Slice0.lean ====
section
/-! SUPPORT. The model's own tests. Expected results are the vectors of spec/95_test_vectors.md, named by their ids, or
follow from the rule named. Then, for every statement of Obligations.lean that has hypotheses, states and operands that meet
all of them. -/

namespace Sys2Proof.Machine.Tests

open Sys2Proof Sys2Proof.Machine

/-! ### Helpers -/

/-- The reset state with a word at an address, big-endian, and PC there. -/
def placed (a : Nat) (w : Word) : State :=
  ((State.reset.setPc (BitVec.ofNat 16 a)).writeByte a (highByte w)).writeByte (a + 1) (lowByte w)

/-- The start of the vectors: the reset state with the opcode under test at 0x200. -/
def start (w : Word) : State := placed 0x200 w

/-- One fact of a next state, nothing of a stop. -/
def got {α : Type} (f : State → α) : Result → Option α
  | .next t => some (f t)
  | .fault _ => none
  | .refused _ => none

/-- `V[x]` and `V[F]` and PC. -/
def xfp (x : Reg) (t : State) : Byte × Byte × Word := (t.reg x, t.reg 0xF, t.pc)

/-- The three parameters the instructions look at. -/
def State.under (s : State) (a : ShiftSrc) (b : ShiftVfOrder) (c : LdstIMode) : State :=
  { s with params := { s.params with shiftSrc := a, shiftVfOrder := b, ldstIMode := c } }

/-- The four error latches and PC. -/
def latches (t : State) : Bool × BitVec 3 × Word × Word × Word := (t.halted, t.errCode, t.errOpcode, t.errPc, t.pc)

/-- A display with the listed pixels on, column first. -/
def lit (ps : List (Fin 64 × Fin 32)) : Display := ps.foldl (fun d p => Display.flip d p.1 p.2) Display.clear

/-- Only the listed pixels are on. -/
def onlyLit (d : Display) (ps : List (Fin 64 × Fin 32)) : Bool := decide (d = lit ps)

/-! ### Well-formedness -/

/-- R63: the row count of DXYN is 0 to 15; the only check there is. -/
theorem test_wellFormed_row_count : WellFormed (.drw 0 0 16) = false ∧ WellFormed (.drw 0 0 15) = true :=
  by decide

/-! ### Decoding: words written bit by bit from the patterns of R70 -/

/-- 00E0 is here as the other word of group 0. 1ABC, 2ABC, BF0F, 3A05, 4A05, 5120, 9120. -/
theorem test_decode_control : decode 0b0000000011100000#16 = .ok (.cls) ∧
    decode 0b0000000011101110#16 = .ok (.ret) ∧
    decode 0b0001101010111100#16 = .ok (.jpAddr 0xABC) ∧
    decode 0b0010101010111100#16 = .ok (.callAddr 0xABC) ∧
    decode 0b1011111100001111#16 = .ok (.jpV0 0xF0F) ∧
    decode 0b0011101000000101#16 = .ok (.seByte 0xA 0x05) ∧
    decode 0b0100101000000101#16 = .ok (.sneByte 0xA 0x05) ∧
    decode 0b0101000100100000#16 = .ok (.seReg 0x1 0x2) ∧
    decode 0b1001000100100000#16 = .ok (.sneReg 0x1 0x2) :=
  by decide

/-- 6A2C, 7A01. -/
theorem test_decode_alu_immediate : decode 0b0110101000101100#16 = .ok (.ldByte 0xA 0x2C) ∧
    decode 0b0111101000000001#16 = .ok (.addByte 0xA 0x01) :=
  by decide

/-- 8AB0 to 8AB7, 8ABE. -/
theorem test_decode_alu_register : decode 0b1000101010110000#16 = .ok (.ldReg 0xA 0xB) ∧
    decode 0b1000101010110001#16 = .ok (.orReg 0xA 0xB) ∧
    decode 0b1000101010110010#16 = .ok (.andReg 0xA 0xB) ∧
    decode 0b1000101010110011#16 = .ok (.xorReg 0xA 0xB) ∧
    decode 0b1000101010110100#16 = .ok (.addReg 0xA 0xB) ∧
    decode 0b1000101010110101#16 = .ok (.subReg 0xA 0xB) ∧
    decode 0b1000101010110110#16 = .ok (.shr 0xA 0xB) ∧
    decode 0b1000101010110111#16 = .ok (.subn 0xA 0xB) ∧
    decode 0b1000101010111110#16 = .ok (.shl 0xA 0xB) :=
  by decide

/-- A300, F21E, FA29, F033, F155, F265. -/
theorem test_decode_index_memory : decode 0b1010001100000000#16 = .ok (.ldI 0x300) ∧
    decode 0b1111001000011110#16 = .ok (.addI 0x2) ∧
    decode 0b1111101000101001#16 = .ok (.ldF 0xA) ∧
    decode 0b1111000000110011#16 = .ok (.ldB 0x0) ∧
    decode 0b1111000101010101#16 = .ok (.ldMemVx 0x1) ∧
    decode 0b1111001001100101#16 = .ok (.ldVxMem 0x2) :=
  by decide

/-- DF01, D00F. -/
theorem test_decode_display : decode 0b1101111100000001#16 = .ok (.drw 0xF 0x0 1) ∧
    decode 0b1101000000001111#16 = .ok (.drw 0x0 0x0 15) :=
  by decide

/-- F207, F10A, F015, F018, E19E, E1A1, C30F. -/
theorem test_decode_timers_keys_random : decode 0b1111001000000111#16 = .ok (.ldVxDt 0x2) ∧
    decode 0b1111000100001010#16 = .ok (.ldVxK 0x1) ∧
    decode 0b1111000000010101#16 = .ok (.ldDtVx 0x0) ∧
    decode 0b1111000000011000#16 = .ok (.ldStVx 0x0) ∧
    decode 0b1110000110011110#16 = .ok (.skp 0x1) ∧
    decode 0b1110000110100001#16 = .ok (.sknp 0x1) ∧
    decode 0b1100001100001111#16 = .ok (.rnd 0x3 0x0F) :=
  by decide

/-- F1 to F13. -/
theorem test_decode_illegal : decode 0x0000 = .error (.unknownOpcode 0x0000) ∧
    decode 0x00E1 = .error (.unknownOpcode 0x00E1) ∧
    decode 0x0123 = .error (.unknownOpcode 0x0123) ∧
    decode 0x5121 = .error (.unknownOpcode 0x5121) ∧
    decode 0x8128 = .error (.unknownOpcode 0x8128) ∧
    decode 0x812F = .error (.unknownOpcode 0x812F) ∧
    decode 0x9121 = .error (.unknownOpcode 0x9121) ∧
    decode 0xE19F = .error (.unknownOpcode 0xE19F) ∧
    decode 0xE100 = .error (.unknownOpcode 0xE100) ∧
    decode 0xF100 = .error (.unknownOpcode 0xF100) ∧
    decode 0xF156 = .error (.unknownOpcode 0xF156) ∧
    decode 0xF075 = .error (.unknownOpcode 0xF075) ∧
    decode 0xF002 = .error (.unknownOpcode 0xF002) :=
  by decide

/-- R44, R60: the first byte is the high half, two bytes are consumed, one byte is no instruction. -/
theorem test_decode_bytes : decodeBytes [0x1A, 0xBC, 0x55] = .ok (.jpAddr 0xABC, [0x55]) ∧
    decodeBytes [0x1A] = .error .truncated ∧
    decodeTableWord 16 0x8AB4 = some (.addReg 0xA 0xB) ∧
    decodeTableWord 16 0x8128 = none :=
  by decide

/-- P2, P3, A1: the bytes as they lie in memory. -/
theorem test_encode : encodeBytes (.drw 0x1 0x2 5) = [0xD1, 0x25] ∧
    encodeBytes (.ldByte 0xA 0x2C) = [0x6A, 0x2C] ∧
    encodeBytes .ret = [0x00, 0xEE] :=
  by decide

/-! ### Control transfer -/

/-- T1, T3: the target is used as is, an odd one too. -/
theorem test_jump : got (·.pc) (step (start 0x1ABC)) = some 0x0ABC ∧
    got (·.pc) (step (start 0x1201)) = some 0x0201 :=
  by decide

/-- T5, T6. -/
theorem test_call : got (fun t => (t.stack[0], t.sp, t.pc)) (step (start 0x2ABC)) = some (0x0202, 1, 0x0ABC) ∧
    got (fun t => (t.stack[15], t.sp, t.pc)) (step ({ start 0x2ABC with sp := 15 })) = some (0x0202, 16, 0x0ABC) :=
  by decide

/-- T7, P5 (a): the seventeenth level faults before any write. -/
theorem test_call_overflow : got (fun t => (latches t, t.sp, t.stack[15])) (step ({ start 0x2ABC with sp := 16 })) = some ((true, 4, 0x2ABC, 0x0200, 0x0200), 16, 0) :=
  by decide

/-- T9: the popped entry is not cleared. -/
theorem test_ret : got (fun t => (t.sp, t.pc, t.stack[0])) (step ({ placed 0x212 0x00EE with sp := 1, stack := State.reset.stack.set 0 0x0206 })) = some (0, 0x0206, 0x0206) :=
  by decide

/-- T10, P5 (c). -/
theorem test_ret_underflow : got (fun t => (latches t, t.sp)) (step (start 0x00EE)) = some ((true, 5, 0x00EE, 0x0200, 0x0200), 0) :=
  by decide

/-- T14, T15: not masked; the x position selects no register. -/
theorem test_jump_v0 : got (·.pc) (step ((start 0xBFFF).setReg 0 0xFF)) = some 0x10FE ∧
    got (·.pc) (step ((start 0xB300).setReg 3 0x10)) = some 0x0300 :=
  by decide

/-- T16, T17. -/
theorem test_se_byte : got (·.pc) (step ((start 0x3A05).setReg 0xA 5)) = some 0x0204 ∧
    got (·.pc) (step ((start 0x3A05).setReg 0xA 6)) = some 0x0202 :=
  by decide

/-- T18, T19. -/
theorem test_sne_byte : got (·.pc) (step ((start 0x4A05).setReg 0xA 6)) = some 0x0204 ∧
    got (·.pc) (step ((start 0x4A05).setReg 0xA 5)) = some 0x0202 :=
  by decide

/-- T20, T21. -/
theorem test_se_reg : got (·.pc) (step (((start 0x5120).setReg 1 0x7F).setReg 2 0x7F)) = some 0x0204 ∧
    got (·.pc) (step (((start 0x5120).setReg 1 1).setReg 2 2)) = some 0x0202 :=
  by decide

/-- T23, T24. -/
theorem test_sne_reg : got (·.pc) (step (((start 0x9120).setReg 1 1).setReg 2 2)) = some 0x0204 ∧
    got (·.pc) (step (((start 0x9120).setReg 1 9).setReg 2 9)) = some 0x0202 :=
  by decide

/-- T25: a skip is not masked, PC leaves the fetchable range. -/
theorem test_skip_past_the_top : got (·.pc) (step ((placed 0xFFE 0x3A2C).setReg 0xA 0x2C)) = some 0x1002 :=
  by decide

/-! ### Load, arithmetic, logic, shift -/

/-- A1, A2. -/
theorem test_ld_byte : got (fun t => (t.reg 0xA, t.pc)) (step (start 0x6A2C)) = some (0x2C, 0x0202) ∧
    got (fun t => (t.reg 0xA, t.pc)) (step (placed 0xFFE 0x6A2C)) = some (0x2C, 0x1000) :=
  by decide

/-- A3: no flag. -/
theorem test_add_byte : got (xfp 0xA) (step (((start 0x7A01).setReg 0xA 0xFF).setReg 0xF 0x55)) = some (0x00, 0x55, 0x0202) :=
  by decide

/-- A5. -/
theorem test_ld_reg : got (xfp 0xA) (step ((start 0x8AB0).setReg 0xB 7)) = some (7, 0, 0x0202) :=
  by decide

/-- A6: VF is left alone. -/
theorem test_or : got (xfp 0xA) (step ((((start 0x8AB1).setReg 0xA 0x0F).setReg 0xB 0xF0).setReg 0xF 0x55)) = some (0xFF, 0x55, 0x0202) :=
  by decide

/-- A7. -/
theorem test_and : got (xfp 0xA) (step (((start 0x8AB2).setReg 0xA 0x3C).setReg 0xB 0x0F)) = some (0x0C, 0, 0x0202) :=
  by decide

/-- A8. -/
theorem test_xor : got (xfp 0xA) (step (((start 0x8AB3).setReg 0xA 0xFF).setReg 0xB 0x0F)) = some (0xF0, 0, 0x0202) :=
  by decide

/-- A11, A12: a sum of 256 carries, one of 255 clears the flag. -/
theorem test_add_reg : got (xfp 0xA) (step (((start 0x8AB4).setReg 0xA 0xFF).setReg 0xB 0x01)) = some (0x00, 1, 0x0202) ∧
    got (xfp 0xA) (step ((((start 0x8AB4).setReg 0xA 0xFF).setReg 0xB 0x00).setReg 0xF 1)) = some (0xFF, 0, 0x0202) :=
  by decide

/-- A14, A15: the flag overwrites the sum; the old VF is the addend. -/
theorem test_add_reg_flag_register : got (xfp 0xF) (step (((start 0x8FB4).setReg 0xF 0xF0).setReg 0xB 0x20)) = some (1, 1, 0x0202) ∧
    got (xfp 0xA) (step (((start 0x8AF4).setReg 0xA 0x10).setReg 0xF 0xFF)) = some (0x0F, 1, 0x0202) :=
  by decide

/-- A19, A20. -/
theorem test_sub_reg : got (xfp 0xA) (step (((start 0x8AB5).setReg 0xA 0x10).setReg 0xB 0x20)) = some (0xF0, 0, 0x0202) ∧
    got (xfp 0xA) (step (((start 0x8AB5).setReg 0xA 0x33).setReg 0xB 0x33)) = some (0x00, 1, 0x0202) :=
  by decide

/-- A22, A23. -/
theorem test_sub_reg_flag_register : got (xfp 0xF) (step (((start 0x8FB5).setReg 0xF 0x05).setReg 0xB 0x03)) = some (1, 1, 0x0202) ∧
    got (xfp 0xA) (step (((start 0x8AF5).setReg 0xA 0x05).setReg 0xF 0x07)) = some (0xFE, 0, 0x0202) :=
  by decide

/-- A24, A25. -/
theorem test_subn : got (xfp 0xA) (step (((start 0x8AB7).setReg 0xA 0x10).setReg 0xB 0x20)) = some (0x10, 1, 0x0202) ∧
    got (xfp 0xA) (step (((start 0x8AB7).setReg 0xA 0x20).setReg 0xB 0x10)) = some (0xF0, 0, 0x0202) :=
  by decide

/-- A28: the old VF is the minuend. -/
theorem test_subn_flag_register : got (xfp 0xA) (step (((start 0x8AF7).setReg 0xA 0x05).setReg 0xF 0x07)) = some (0x02, 1, 0x0202) :=
  by decide

/-- H1 under the four settings: SHIFT_SRC selects the source. -/
theorem test_shr_source : got (fun t => (t.reg 0xA, t.reg 0xF)) (step (State.under (((start 0x8AB6).setReg 0xA 0x05).setReg 0xB 0x82) .vx .flagFirst .unchanged)) = some (0x02, 1) ∧
    got (fun t => (t.reg 0xA, t.reg 0xF)) (step (State.under (((start 0x8AB6).setReg 0xA 0x05).setReg 0xB 0x82) .vx .flagLast .unchanged)) = some (0x02, 1) ∧
    got (fun t => (t.reg 0xA, t.reg 0xF)) (step (State.under (((start 0x8AB6).setReg 0xA 0x05).setReg 0xB 0x82) .vy .flagFirst .unchanged)) = some (0x41, 0) ∧
    got (fun t => (t.reg 0xA, t.reg 0xF)) (step (State.under (((start 0x8AB6).setReg 0xA 0x05).setReg 0xB 0x82) .vy .flagLast .unchanged)) = some (0x41, 0) :=
  by decide

/-- H5, H7 under the four settings. -/
theorem test_shr_flag_register : got (fun t => (t.reg 0xF, t.reg 0xF)) (step (State.under (((start 0x8FB6).setReg 0xF 0x03).setReg 0xB 0x07) .vx .flagFirst .unchanged)) = some (0x00, 0x00) ∧
    got (fun t => (t.reg 0xF, t.reg 0xF)) (step (State.under (((start 0x8FB6).setReg 0xF 0x03).setReg 0xB 0x07) .vx .flagLast .unchanged)) = some (0x01, 0x01) ∧
    got (fun t => (t.reg 0xF, t.reg 0xF)) (step (State.under (((start 0x8FB6).setReg 0xF 0x03).setReg 0xB 0x07) .vy .flagFirst .unchanged)) = some (0x03, 0x03) ∧
    got (fun t => (t.reg 0xF, t.reg 0xF)) (step (State.under (((start 0x8FB6).setReg 0xF 0x03).setReg 0xB 0x07) .vy .flagLast .unchanged)) = some (0x01, 0x01) ∧
    got (fun t => (t.reg 0xA, t.reg 0xF)) (step (State.under (((start 0x8AF6).setReg 0xA 0x10).setReg 0xF 0x03) .vx .flagFirst .unchanged)) = some (0x08, 0) ∧
    got (fun t => (t.reg 0xA, t.reg 0xF)) (step (State.under (((start 0x8AF6).setReg 0xA 0x10).setReg 0xF 0x03) .vx .flagLast .unchanged)) = some (0x08, 0) ∧
    got (fun t => (t.reg 0xA, t.reg 0xF)) (step (State.under (((start 0x8AF6).setReg 0xA 0x10).setReg 0xF 0x03) .vy .flagFirst .unchanged)) = some (0x00, 1) ∧
    got (fun t => (t.reg 0xA, t.reg 0xF)) (step (State.under (((start 0x8AF6).setReg 0xA 0x10).setReg 0xF 0x03) .vy .flagLast .unchanged)) = some (0x01, 1) :=
  by decide

/-- H2 under the four settings. -/
theorem test_shl_source : got (fun t => (t.reg 0xA, t.reg 0xF)) (step (State.under (((start 0x8ABE).setReg 0xA 0x81).setReg 0xB 0x42) .vx .flagFirst .unchanged)) = some (0x02, 1) ∧
    got (fun t => (t.reg 0xA, t.reg 0xF)) (step (State.under (((start 0x8ABE).setReg 0xA 0x81).setReg 0xB 0x42) .vx .flagLast .unchanged)) = some (0x02, 1) ∧
    got (fun t => (t.reg 0xA, t.reg 0xF)) (step (State.under (((start 0x8ABE).setReg 0xA 0x81).setReg 0xB 0x42) .vy .flagFirst .unchanged)) = some (0x84, 0) ∧
    got (fun t => (t.reg 0xA, t.reg 0xF)) (step (State.under (((start 0x8ABE).setReg 0xA 0x81).setReg 0xB 0x42) .vy .flagLast .unchanged)) = some (0x84, 0) :=
  by decide

/-- H6, H8 under the four settings. -/
theorem test_shl_flag_register : got (fun t => (t.reg 0xF, t.reg 0xF)) (step (State.under (((start 0x8FBE).setReg 0xF 0x81).setReg 0xB 0xC1) .vx .flagFirst .unchanged)) = some (0x02, 0x02) ∧
    got (fun t => (t.reg 0xF, t.reg 0xF)) (step (State.under (((start 0x8FBE).setReg 0xF 0x81).setReg 0xB 0xC1) .vx .flagLast .unchanged)) = some (0x01, 0x01) ∧
    got (fun t => (t.reg 0xF, t.reg 0xF)) (step (State.under (((start 0x8FBE).setReg 0xF 0x81).setReg 0xB 0xC1) .vy .flagFirst .unchanged)) = some (0x82, 0x82) ∧
    got (fun t => (t.reg 0xF, t.reg 0xF)) (step (State.under (((start 0x8FBE).setReg 0xF 0x81).setReg 0xB 0xC1) .vy .flagLast .unchanged)) = some (0x01, 0x01) ∧
    got (fun t => (t.reg 0xA, t.reg 0xF)) (step (State.under (((start 0x8AFE).setReg 0xA 0x10).setReg 0xF 0xC1) .vx .flagFirst .unchanged)) = some (0x20, 0) ∧
    got (fun t => (t.reg 0xA, t.reg 0xF)) (step (State.under (((start 0x8AFE).setReg 0xA 0x10).setReg 0xF 0xC1) .vx .flagLast .unchanged)) = some (0x20, 0) ∧
    got (fun t => (t.reg 0xA, t.reg 0xF)) (step (State.under (((start 0x8AFE).setReg 0xA 0x10).setReg 0xF 0xC1) .vy .flagFirst .unchanged)) = some (0x02, 1) ∧
    got (fun t => (t.reg 0xA, t.reg 0xF)) (step (State.under (((start 0x8AFE).setReg 0xA 0x10).setReg 0xF 0xC1) .vy .flagLast .unchanged)) = some (0x82, 1) :=
  by decide

/-! ### Index and memory -/

/-- M1. -/
theorem test_ld_i : got (·.idx) (step ((start 0xA300).setIdx 0xFFFF)) = some 0x0300 :=
  by decide

/-- M3, M4: 16 bits, no mask, no flag. -/
theorem test_add_i : got (fun t => (t.idx, t.reg 0xF)) (step (((start 0xF01E).setIdx 0x0FFE).setReg 0 5)) = some (0x1003, 0) ∧
    got (·.idx) (step (((start 0xF01E).setIdx 0xFFFF).setReg 0 1)) = some 0x0000 :=
  by decide

/-- M7, M8: the low nibble only. -/
theorem test_ld_f : got (·.idx) (step ((start 0xFA29).setReg 0xA 0x1B)) = some 0x0087 ∧
    got (·.idx) (step ((start 0xFA29).setReg 0xA 0xFF)) = some 0x009B :=
  by decide

/-- M9, M12: the third byte wraps to address 0. -/
theorem test_ld_b : got (fun t => (t.readByte 0x300, t.readByte 0x301, t.readByte 0x302, t.idx)) (step (((start 0xF033).setIdx 0x300).setReg 0 254)) = some (2, 5, 4, 0x300) ∧
    got (fun t => (t.readByte 0xFFE, t.readByte 0xFFF, t.readByte 0x000, t.idx)) (step (((start 0xF033).setIdx 0xFFE).setReg 0 254)) = some (2, 5, 4, 0xFFE) :=
  by decide

/-- M14 under the three modes. -/
theorem test_ld_mem_vx : got (fun t => (t.readByte 0xFFF, t.readByte 0x000, t.readByte 0x001, t.idx)) (step (State.under ((((start 0xF255).setIdx 0xFFF).setReg 0 0x11).setReg 1 0x22 |>.setReg 2 0x33) .vx .flagFirst .unchanged)) = some (0x11, 0x22, 0x33, 0x0FFF) ∧
    got (fun t => (t.readByte 0xFFF, t.readByte 0x000, t.readByte 0x001, t.idx)) (step (State.under ((((start 0xF255).setIdx 0xFFF).setReg 0 0x11).setReg 1 0x22 |>.setReg 2 0x33) .vx .flagFirst .incXPlus1)) = some (0x11, 0x22, 0x33, 0x1002) ∧
    got (fun t => (t.readByte 0xFFF, t.readByte 0x000, t.readByte 0x001, t.idx)) (step (State.under ((((start 0xF255).setIdx 0xFFF).setReg 0 0x11).setReg 1 0x22 |>.setReg 2 0x33) .vx .flagFirst .incX)) = some (0x11, 0x22, 0x33, 0x1001) :=
  by decide

/-- M15: one register is one byte. -/
theorem test_ld_mem_vx_one : got (fun t => (t.readByte 0x500, t.readByte 0x501)) (step (((start 0xF055).setIdx 0x500).setReg 0 0x77)) = some (0x77, 0) :=
  by decide

/-- M17 under the three modes: I wraps modulo 65536, the address modulo 4096. -/
theorem test_ld_vx_mem : got (fun t => (t.reg 0, t.reg 1, t.idx)) (step (State.under (((start 0xF065).setIdx 0xFFFF).writeByte 0xFFF 0x77) .vx .flagFirst .unchanged)) = some (0x77, 0, 0xFFFF) ∧
    got (fun t => (t.reg 0, t.reg 1, t.idx)) (step (State.under (((start 0xF065).setIdx 0xFFFF).writeByte 0xFFF 0x77) .vx .flagFirst .incXPlus1)) = some (0x77, 0, 0x0000) ∧
    got (fun t => (t.reg 0, t.reg 1, t.idx)) (step (State.under (((start 0xF065).setIdx 0xFFFF).writeByte 0xFFF 0x77) .vx .flagFirst .incX)) = some (0x77, 0, 0xFFFF) :=
  by decide

/-- M18: VF is loaded as an ordinary register. -/
theorem test_ld_vx_mem_all : got (fun t => t.v.toList) (step ((start 0xFF65).setIdx 0x050)) = some [0xF0, 0x90, 0x90, 0x90, 0xF0, 0x20, 0x60, 0x20, 0x20, 0x70, 0xF0, 0x10, 0xF0, 0x80, 0xF0, 0xF0] :=
  by decide

/-! ### Display -/

/-- G1: VF is left alone. -/
theorem test_cls : got (fun t => (onlyLit t.fb [], t.reg 0xF, t.pc)) (step (((start 0x00E0).setFb (lit [(0, 0), (63, 31)])).setReg 0xF 0x55)) = some (true, 0x55, 0x0202) :=
  by decide

/-- G2, G3, G4: columns wrap pixel by pixel; the start is taken modulo 64 and 32; row 1 wraps to the top, its byte
comes from address 0. -/
theorem test_drw_wraps : got (fun t => (onlyLit t.fb [(60, 0), (61, 0), (62, 0), (63, 0), (0, 0), (1, 0), (2, 0), (3, 0)], t.reg 0xF, t.pc)) (step ((((start 0xD121).setReg 1 60).setReg 2 0).setIdx 0x300 |>.writeByte 0x300 0xFF)) = some (true, 0, 0x0202) ∧
    got (fun t => (onlyLit t.fb [(62, 1), (63, 1)], t.reg 0xF, t.pc)) (step ((((start 0xD121).setReg 1 0x7E).setReg 2 0x21).setIdx 0x300 |>.writeByte 0x300 0xC0)) = some (true, 0, 0x0202) ∧
    got (fun t => (onlyLit t.fb [(0, 31), (7, 0)], t.reg 0xF, t.pc)) (step (((((start 0xD122).setReg 2 31).setIdx 0xFFF).writeByte 0xFFF 0x80).writeByte 0x000 0x01)) = some (true, 0, 0x0202) :=
  by decide

/-- G5 to G8: a collision is a pixel turned off; no row still writes VF; the old VF is the column. -/
theorem test_drw_collision : got (fun t => (onlyLit t.fb [(0, 0), (5, 5)], t.reg 0xF, t.pc)) (step ((((start 0xD121).setFb (lit [(1, 0), (5, 5)])).setIdx 0x300).writeByte 0x300 0xC0)) = some (true, 1, 0x0202) ∧
    got (fun t => (onlyLit t.fb [(0, 0), (1, 0), (2, 0), (3, 0), (4, 0), (5, 0), (6, 0), (7, 0)], t.reg 0xF, t.pc)) (step ((((start 0xD121).setFb (lit [(0, 0), (1, 0)])).setIdx 0x300).writeByte 0x300 0x3F)) = some (true, 0, 0x0202) ∧
    got (fun t => (onlyLit t.fb [(0, 0)], t.reg 0xF, t.pc)) (step (((((start 0xD120).setFb (lit [(0, 0)])).setReg 0xF 1).setIdx 0x300).writeByte 0x300 0xFF)) = some (true, 0, 0x0202) ∧
    got (fun t => (onlyLit t.fb [(3, 2)], t.reg 0xF, t.pc)) (step (((((start 0xDF01).setReg 0xF 3).setReg 0 2).setIdx 0x300).writeByte 0x300 0x80)) = some (true, 0, 0x0202) :=
  by decide

/-! ### Timers, keys, random -/

/-- W2. -/
theorem test_ld_vx_dt : got (fun t => (t.reg 2, t.dt, t.pc)) (step ((start 0xF207).setDt 0x32)) = some (0x32, 0x32, 0x0202) :=
  by decide

/-- W1. -/
theorem test_ld_dt_vx : got (fun t => (t.dt, t.pc)) (step ((start 0xF015).setReg 0 0x3C)) = some (0x3C, 0x0202) :=
  by decide

/-- W3: the buzzer sounds while ST is nonzero. -/
theorem test_ld_st_vx : got (fun t => (t.st, t.buzzer, t.tick.buzzer, t.tick.tick.buzzer)) (step ((start 0xF018).setReg 0 2)) = some (2, true, true, false) :=
  by decide

/-- W7, W8, W9: the low nibble selects the key. -/
theorem test_skp : got (·.pc) (step ({ (start 0xE19E).setReg 1 0 with keys := 0x0000 })) = some 0x0202 ∧
    got (·.pc) (step ({ (start 0xE19E).setReg 1 0x15 with keys := 0x0020 })) = some 0x0204 ∧
    got (·.pc) (step ({ (start 0xE19E).setReg 1 0x0F with keys := 0x8000 })) = some 0x0204 :=
  by decide

/-- W10, W11. -/
theorem test_sknp : got (·.pc) (step ({ (start 0xE1A1).setReg 1 5 with keys := 0x0020 })) = some 0x0202 ∧
    got (·.pc) (step ({ (start 0xE1A1).setReg 1 5 with keys := 0x0000 })) = some 0x0204 :=
  by decide

/-- W12, W13: the wait begins with PC unchanged and ends with the key pressed. -/
theorem test_ld_vx_k : got (fun t => (t.waiting, t.waitX, t.pc, t.reg 1)) (step (start 0xF10A)) = some (true, 1, 0x0200, 0) ∧
    got (fun t => ((t.setKeys 0x0020).reg 1, (t.setKeys 0x0020).pc, (t.setKeys 0x0020).waiting, (t.setKeys 0x0020).keys)) (step (start 0xF10A)) = some (5, 0x0202, false, 0x0020) :=
  by decide

/-- W14: a held key and a release do not complete; of keys 2, 8, 15 the lowest does. -/
theorem test_ld_vx_k_held_and_several : let s : State := { start 0xFF0A with keys := 0x0004, waiting := true, waitX := 0xF }
    (s.setKeys 0x0004).waiting = true ∧ ((s.setKeys 0x0004).setKeys 0x0000).waiting = true ∧
    (({ start 0xFF0A with waiting := true, waitX := 0xF } : State).setKeys 0x8104).reg 0xF = 2 ∧
    (({ start 0xFF0A with waiting := true, waitX := 0xF } : State).setKeys 0x8104).pc = 0x0202 :=
  by decide

/-- W17: under the mask 0 the register is 0 whatever was drawn. -/
theorem test_rnd_masked : got (fun t => (t.reg 3, t.pc)) (step ((start 0xC300).setReg 3 0xFF)) = some (0x00, 0x0202) := by
  have h : step ((start 0xC300).setReg 3 0xFF) = execRnd 3 0 ((start 0xC300).setReg 3 0xFF) := by rfl
  rw [h]
  simp [got, execRnd, start, placed]

/-- W18: under the mask FF the register is the byte drawn, and the draw is used up. -/
theorem test_rnd_whole : got (fun t => (t.reg 3, t.draws)) (step (start 0xC3FF)) = some (Config.rnd 0, 1) := by
  have h : step (start 0xC3FF) = execRnd 3 0xFF (start 0xC3FF) := by rfl
  rw [h]
  have hm : ∀ b : Byte, b &&& 0xFF#8 = b := by decide
  simp [got, execRnd, start, placed, hm, State.reset]

/-! ### Step, events, faults -/

/-- F14, F15, T4: fetch is bounded, not wrapped. -/
theorem test_fetch_bound : got (latches) (step (State.reset.setPc 0x0FFF)) = some (true, 2, 0, 0x0FFF, 0x0FFF) ∧
    got (latches) (step (State.reset.setPc 0x1000)) = some (true, 2, 0, 0x1000, 0x1000) :=
  by decide

/-- F1, R193: what a step finds after reset with no load. -/
theorem test_empty_memory : got (latches) (step (State.reset)) = some (true, 3, 0x0000, 0x0200, 0x0200) :=
  by decide

/-- F16, W15: a step does nothing, a tick still counts. -/
theorem test_halted_and_waiting : got id (step { State.reset with halted := true, errCode := 3 }) = some { State.reset with halted := true, errCode := 3 } ∧
    got id (step { State.reset with waiting := true }) = some { State.reset with waiting := true } ∧
    got (fun t => (t.dt, t.halted)) (step ({ State.reset with halted := true, dt := 3, schedule := [.tick] })) = some (2, true) :=
  by decide

/-- F17: a load writes memory and leaves the error latches. -/
theorem test_load_while_halted : got (fun t => ([t.readByte 0x200, t.readByte 0x201, t.readByte 0x202], latches t)) (step ({ State.reset with halted := true, errCode := 3, errPc := 0x200, schedule := [.load [0x12, 0x00]] })) = some ([0x12, 0x00, 0x00], (true, 3, 0, 0x200, 0x200)) :=
  by decide

/-- F18: the latches are cleared, the register and the memory byte too. -/
theorem test_reset_event : got (fun t => (latches t, t.reg 4, t.readByte 0x300)) (step ({ (State.reset.setReg 4 9).writeByte 0x300 7 with halted := true, errCode := 3, errPc := 0x210, schedule := [.reset] })) = some ((false, 0, 0, 0, 0x200), 0, 0) :=
  by decide

/-- W4, W5: both count down and stop at zero. -/
theorem test_timers : (({ State.reset with dt := 1, st := 2 } : State).tick.dt, ({ State.reset with dt := 1, st := 2 } : State).tick.st) = (0, 1) ∧
    ({ State.reset with dt := 0, st := 1 } : State).tick.tick.st = 0 :=
  by decide

/-- M19: step 2 executes the word step 1 stored. -/
theorem test_store_then_fetch : (do let t ← got id (step ((((start 0xF155).setIdx 0x202).setReg 0 0x12).setReg 1 0x00)); got (·.pc) (step t)) = some 0x200 :=
  by decide

/-- R19: glyph B at 0x087, the last byte of glyph F at 0x09F, nothing beside the font. -/
theorem test_font : (List.range 5).map (fun k => State.reset.readByte (0x087 + k)) = [0xE0, 0x90, 0xE0, 0x90, 0xE0] ∧
    State.reset.readByte 0x09F = 0x80 ∧
    State.reset.readByte 0x0A0 = 0 ∧
    State.reset.readByte 0x04F = 0 :=
  by decide

/-- R91: rst alone suppresses the others; else the fixed order. -/
theorem test_strobes : Strobes.events ⟨true, some [], some 1, true, true⟩ = [.reset] ∧
    Strobes.events ⟨false, some [0x12], some 1, true, true⟩ = [.load [0x12], .setKeys 1, .step, .tick] :=
  by decide

/-- Log 6: writing back the reset contents removes the entry. -/
theorem test_canonical_memory : ((State.reset.writeByte 0x300 7).writeByte 0x300 0).mem = [] ∧
    (State.reset.writeByte 0x050 0xF0).mem = [] ∧
    ((State.reset.writeByte 0x300 7).writeByte 0x200 1).mem = [(0x200, 1), (0x300, 7)] :=
  by decide

/-- The placed word is the one the next step runs, from states in its way too. -/
theorem test_withFetchWord : got (xfp 0xA) (step (State.reset.withFetchWord 16 0x6A2C)) = some (0x2C, 0, 0x0202) ∧
    got (xfp 0xA) (step (({ State.reset with halted := true, pc := 0x1000, schedule := [.tick] } : State).withFetchWord 16 0x6A2C)) = some (0x2C, 0, 0x0202) :=
  by decide

/-! ### Witnesses: states and operands that meet the hypotheses of the statements -/

/-- Row counts 0 and 15. -/
theorem witness_DecodeOfEncodeIsTheInstruction : WellFormed (.drw 0xF 0x0 0) = true ∧
    WellFormed (.drw 0x0 0xF 15) = true :=
  by decide

/-- The least and the greatest word that decode. -/
theorem witness_EncodeOfDecodeIsTheWord : decode 0x00E0 = .ok .cls ∧
    decode 0xFF65 = .ok (.ldVxMem 0xF) :=
  by decide

/-- A row that accepts, and a word none accepts. -/
theorem witness_DecoderAcceptsExactlyTheTableRows : (rowOf (.shl 0xA 0xB)).accepts 0x8ABE = true ∧
    rowOf (.shl 0xA 0xB) ∈ opcodeRows ∧
    ∀ r ∈ opcodeRows, r.accepts 0x812F = false :=
  by decide

/-- The last fetchable address, with no event waiting and with a step waiting. -/
theorem witness_StepRunsTheDecodedInstruction : Running (placed 0xFFE 0x6A2C) ∧
    (placed 0xFFE 0x6A2C).pc.toNat = 0xFFE ∧
    (placed 0xFFE 0x6A2C).schedule = [] ∧
    decode (joinBytes ((placed 0xFFE 0x6A2C).readByte 0xFFE) ((placed 0xFFE 0x6A2C).readByte 0xFFF)) = .ok (.ldByte 0xA 0x2C) ∧
    ({ placed 0xFFE 0x6A2C with schedule := [.step, .tick] } : State).schedule = .step :: [.tick] :=
  by
  simp only [Running]
  decide

/-- Each kind of event at the head, and none. -/
theorem witness_ScheduledEventIsApplied : ({ State.reset with schedule := [.reset] } : State).schedule = .reset :: [] ∧
    ({ State.reset with schedule := [.load [0x12, 0x00]] } : State).schedule = .load [0x12, 0x00] :: [] ∧
    ({ State.reset with schedule := [.tick] } : State).schedule = .tick :: [] ∧
    ({ State.reset with schedule := [.setKeys 0x8000] } : State).schedule = .setKeys 0x8000 :: [] ∧
    ({ State.reset with schedule := [.step] } : State).schedule = .step :: [] ∧
    State.reset.schedule = [] :=
  by decide

/-- PC = 0xFFF and PC = 0xFFFF. -/
theorem witness_FetchBeyondTheTopFaults : StepIsNext (State.reset.setPc 0x0FFF) ∧
    Running (State.reset.setPc 0x0FFF) ∧
    0xFFE < (State.reset.setPc 0x0FFF).pc.toNat ∧
    0xFFE < (State.reset.setPc 0xFFFF).pc.toNat :=
  by
  simp only [Running, StepIsNext]
  decide

/-- The reset state. -/
theorem witness_UnknownOpcodeFaults : StepIsNext State.reset ∧
    Running State.reset ∧
    fetch State.reset = some 0x0000 ∧
    ∀ r ∈ opcodeRows, r.accepts 0x0000 = false :=
  by
  simp only [Running, StepIsNext]
  decide

/-- SP = 16 with a call at PC. -/
theorem witness_SeventeenthCallFaults : StepIsNext ({ start 0x2ABC with sp := 16 }) ∧
    Running ({ start 0x2ABC with sp := 16 }) ∧
    fetch ({ start 0x2ABC with sp := 16 } : State) = some 0x2ABC ∧
    decode 0x2ABC = .ok (.callAddr 0xABC) ∧
    ({ start 0x2ABC with sp := 16 } : State).sp = 16 :=
  by
  simp only [Running, StepIsNext]
  decide

/-- A return at PC after reset. -/
theorem witness_ReturnWithoutCallFaults : StepIsNext (start 0x00EE) ∧
    Running (start 0x00EE) ∧
    fetch (start 0x00EE) = some 0x00EE ∧
    (start 0x00EE).sp = 0 :=
  by
  simp only [Running, StepIsNext]
  decide

/-- A halted and a waiting state. -/
theorem witness_HaltedOrWaitingStepChangesNothing : StepIsNext { State.reset with halted := true } ∧
    ({ State.reset with halted := true } : State).halted = true ∧
    StepIsNext { State.reset with waiting := true } ∧
    ({ State.reset with waiting := true } : State).waiting = true :=
  by
  simp only [StepIsNext]
  decide

/-- Both faulting instructions. -/
theorem witness_AFaultingInstructionWritesOnlyTheLatches : got (·.halted) (exec .ret State.reset) = some true ∧
    got (·.halted) (exec (.callAddr 0xABC) { State.reset with sp := 16 }) = some true ∧
    State.reset.halted = false :=
  by decide

/-- A halted state whose next event is a load, and one whose next event is a step. -/
theorem witness_OnlyResetLeavesTheHaltedState : ({ State.reset with halted := true, schedule := [.load [0x12, 0x00]] } : State).schedule.head? ≠ some .reset ∧
    got (·.halted) (step { State.reset with halted := true, schedule := [.load [0x12, 0x00]] }) = some true ∧
    State.reset.schedule.head? ≠ some .reset ∧
    got (·.halted) (step { State.reset with halted := true }) = some true :=
  by decide

/-- A destination that is not VF, and sums of 255 and 256. -/
theorem witness_AddSetsCarryAfterTheDestination : (0xE : Reg) ≠ vf ∧
    ¬ 255 < (0xFF : Byte).toNat + (0x00 : Byte).toNat ∧
    255 < (0xFF : Byte).toNat + (0x01 : Byte).toNat :=
  by decide

/-- Equal operands, and a borrow. -/
theorem witness_SubtractSetsNotBorrow : (0xE : Reg) ≠ vf ∧
    (0x33 : Byte).toNat ≤ (0x33 : Byte).toNat ∧
    ¬ (0x01 : Byte).toNat ≤ (0x00 : Byte).toNat :=
  by decide

/-- A destination that is not VF. -/
theorem witness_ReversedSubtractSetsNotBorrow : (0xE : Reg) ≠ vf ∧
    (0x00 : Byte).toNat ≤ (0x01 : Byte).toNat :=
  by decide

/-- Both orders, and destinations that are VF and not. -/
theorem witness_ShiftRightInEverySetting : (State.under State.reset .vy .flagLast .incX).params.shiftVfOrder = .flagLast ∧
    (State.under State.reset .vx .flagFirst .incX).params.shiftVfOrder = .flagFirst ∧
    (0xF : Reg) = vf ∧
    (0x0 : Reg) ≠ vf :=
  by decide

/-- As for the shift right, with both sources. -/
theorem witness_ShiftLeftInEverySetting : (State.under State.reset .vy .flagLast .incX).params.shiftSrc = .vy ∧
    (State.under State.reset .vx .flagFirst .incX).params.shiftSrc = .vx ∧
    (State.under State.reset .vy .flagLast .incX).params.shiftVfOrder = .flagLast ∧
    (State.under State.reset .vx .flagFirst .incX).params.shiftVfOrder = .flagFirst ∧
    (0xF : Reg) = vf ∧
    (0x0 : Reg) ≠ vf :=
  by decide

/-- An address outside the three bytes, where they wrap. -/
theorem witness_BcdStoreWritesThreeDigits : ∀ k < 3, (0x001 : Nat) ≠ dataAddr 0xFFE k ∧
    dataAddr 0xFFE 2 = 0x000 :=
  by decide

/-- The three modes, the first and the last register, an address outside the stored bytes. -/
theorem witness_StoreRegistersWritesAscending : (State.under State.reset .vx .flagLast .unchanged).params.ldstIMode = .unchanged ∧
    (State.under State.reset .vx .flagLast .incXPlus1).params.ldstIMode = .incXPlus1 ∧
    (State.under State.reset .vx .flagLast .incX).params.ldstIMode = .incX ∧
    (0x0 : Reg).toNat ≤ (0x0 : Reg).toNat ∧
    (0xF : Reg).toNat ≤ (0xF : Reg).toNat ∧
    ∀ k, k ≤ (0x0 : Reg).toNat → (0x501 : Nat) ≠ dataAddr 0x500 k :=
  by decide

/-- The three modes, a register loaded and one above the last. -/
theorem witness_LoadRegistersReadsAscending : (State.under State.reset .vx .flagLast .unchanged).params.ldstIMode = .unchanged ∧
    (State.under State.reset .vx .flagLast .incXPlus1).params.ldstIMode = .incXPlus1 ∧
    (State.under State.reset .vx .flagLast .incX).params.ldstIMode = .incX ∧
    (0xF : Reg).toNat ≤ (0xF : Reg).toNat ∧
    (0xE : Reg).toNat < (0xF : Reg).toNat :=
  by decide

/-- A store, and the state after it with I put back. -/
theorem witness_StoredRegistersLoadBack : ∃ s t u : State, exec (.ldMemVx 0xF) s = .next t ∧
    (∀ a, u.readByte a = t.readByte a) ∧ u.idx = s.idx :=
  ⟨State.under State.reset .vx .flagLast .incX, _, State.setIdx _ _, rfl, fun _ => rfl, rfl⟩

/-- M19: the stored word lies at the next PC, registers 0 and 1 and, at the other end, registers 14 and 15. -/
theorem witness_AStoreIsSeenByTheNextFetch :
    (∃ t, exec (.ldMemVx 0x1) (State.reset.setIdx 0x202) = .next t ∧ (0x0 : Reg).toNat + 1 ≤ (0x1 : Reg).toNat ∧
      t.pc.toNat ≤ 0xFFE ∧ t.pc.toNat = dataAddr 0x202 (0x0 : Reg).toNat ∧
      t.pc.toNat + 1 = dataAddr 0x202 ((0x0 : Reg).toNat + 1)) ∧
    (∃ t, exec (.ldMemVx 0xF) ((State.reset.setPc 0xFFC).setIdx 0xFF0) = .next t ∧
      (0xE : Reg).toNat + 1 ≤ (0xF : Reg).toNat ∧ t.pc.toNat ≤ 0xFFE ∧
      t.pc.toNat = dataAddr 0xFF0 (0xE : Reg).toNat ∧ t.pc.toNat + 1 = dataAddr 0xFF0 ((0xE : Reg).toNat + 1)) :=
  ⟨⟨_, rfl, by decide, by decide, by decide, by decide⟩, ⟨_, rfl, by decide, by decide, by decide, by decide⟩⟩

/-- Targets no instruction fits at. -/
theorem witness_JumpSetsPc : 0xFFE < (0xFFF : Addr).toNat :=
  by decide

/-- SP = 0 and SP = 15. -/
theorem witness_CallPushesTheReturnAddress : State.reset.sp.toNat = (0 : Fin 16).val ∧
    ({ State.reset with sp := 15 } : State).sp.toNat = (15 : Fin 16).val ∧
    (14 : Fin 16) ≠ 15 :=
  by decide

/-- SP = 1 and SP = 16. -/
theorem witness_ReturnPopsTheReturnAddress : ({ State.reset with sp := 1 } : State).sp.toNat = (0 : Fin 16).val + 1 ∧
    ({ State.reset with sp := 16 } : State).sp.toNat = (15 : Fin 16).val + 1 :=
  by decide

/-- The state right after a call on the sixteenth level. -/
theorem witness_ReturnComesBackAfterTheCall : ∃ s t u : State, s.sp.toNat < 16 ∧ exec (.callAddr 0x345) s = .next t ∧
    u.sp = t.sp ∧ u.stack = t.stack :=
  ⟨{ State.reset with sp := 15 }, _, _, by decide, rfl, rfl, rfl⟩

/-- SP = 17 and SP = 255. -/
theorem witness_StackPointerAboveSixteenStops : 16 < ({ State.reset with sp := 17 } : State).sp.toNat ∧
    16 < ({ State.reset with sp := 255 } : State).sp.toNat :=
  by decide

/-- No row and the most rows. -/
theorem witness_DrawIsTheExclusiveOrWithTheSprite : (0 : Nat) < 16 ∧
    (15 : Nat) < 16 :=
  by decide

/-- Glyph 0 drawn at column 62, row 30, with registers other than VF. -/
theorem witness_DrawingTwiceRestoresTheDisplay : ∃ s t : State, (5 : Nat) < 16 ∧ (0x1 : Reg) ≠ vf ∧ (0xE : Reg) ≠ vf ∧
    exec (.drw 0x1 0xE 5) s = .next t :=
  ⟨((State.reset.setReg 1 62).setReg 0xE 30).setIdx 0x050, _, by decide, by decide, by decide, rfl⟩

/-- Key 0 pressed, and key 15 pressed alone while key 2 is held. -/
theorem witness_LeastNewlyPressedKeyCompletesTheWait : ({ State.reset with waiting := true } : State).waiting = true ∧
    (0x0001 : Word).getLsbD (0 : Fin 16).val = true ∧
    ({ State.reset with waiting := true } : State).keys.getLsbD (0 : Fin 16).val = false ∧
    (0x8004 : Word).getLsbD (15 : Fin 16).val = true ∧
    (0x0004 : Word).getLsbD (15 : Fin 16).val = false ∧
    ∀ j < (15 : Fin 16).val, ¬((0x8004 : Word).getLsbD j = true ∧ (0x0004 : Word).getLsbD j = false) :=
  by decide

/-- Not waiting; and waiting with a key held and another released. -/
theorem witness_KeysWithoutAPressOnlyUpdateTheLatch : State.reset.waiting = false ∧
    ∀ j < 16, ¬((0x0004 : Word).getLsbD j = true ∧ (0x0006 : Word).getLsbD j = false) :=
  by decide

/-- A mask bit that is 0. -/
theorem witness_RandomByteIsMasked : (0x7F : Byte).getLsbD 7 = false :=
  by decide

/-- Addresses beside the font. -/
theorem witness_ResetEventRestoresEveryValue : (0x04F : Nat) < 0x050 ∧
    0x0A0 ≤ (0x0A0 : Nat) :=
  by decide

/-- The addresses on both sides of the font, and the last one. -/
theorem witness_ResetStateHasTheTableValues : (0x04F : Nat) < 0x050 ∧
    0x0A0 ≤ (0x0A0 : Nat) ∧ (0x0A0 : Nat) < 0x1000 ∧
    0x0A0 ≤ (0xFFF : Nat) ∧ (0xFFF : Nat) < 0x1000 :=
  by decide

/-- The empty ROM and the largest one, an address below and one above a ROM. -/
theorem witness_LoadCopiesTheRom : ([] : List Byte).length ≤ 3584 ∧
    (List.replicate 3584 (0 : Byte)).length ≤ 3584 ∧
    (0x1FF : Nat) < 0x200 ∧
    0x200 + 2 ≤ (0x202 : Nat) :=
  by
  rw [List.length_replicate]
  decide

/-- The smallest ROM that is too large. -/
theorem witness_TooLargeRomChangesOnlyLoadErr : 3584 < (List.replicate 3585 (0 : Byte)).length :=
  by
  rw [List.length_replicate]
  decide

/-- A state with a key awaited, bytes stored, calls made and registers set. -/
def busy : State :=
  { ((start 0xF10A).setReg 3 9).writeByte 0x300 7 with
    sp := 16, stack := State.reset.stack.set 15 0x1000, waiting := true, waitX := 1, schedule := [.setKeys 1] }

/-- The invariant holds of a state that is not a reset state, at the bounds of SP and of the stack. -/
theorem busy_inv : busy.Inv where
  memory_canonical := by decide
  sp_in_bounds := by decide
  pc_in_bounds := by decide
  stack_in_bounds := by decide
  waits_on_fetched_pc := by decide
  err_code_legal := by decide
  halted_iff_error := by decide
  not_halted_and_waiting := by decide
  no_error_no_record := by decide

/-- A state with the invariant that takes a step. -/
theorem witness_EveryStepKeepsTheInvariant : ∃ s t : State, s.Inv ∧ step s = .next t := ⟨busy, _, busy_inv, rfl⟩

theorem witness_AStepNeverStopsTheMachine : ∃ s : State, s.Inv := ⟨busy, busy_inv⟩

/-- A history of three events, a load, a step that runs the 6A2C loaded, a tick: the state it ends in is reached, and V[A]
shows that the program ran. -/
theorem witness_EveryHistoryMeetsTheInvariant : ∃ s : State, Reached s ∧ s.reg 0xA = 0x2C ∧ s.pc = 0x0202 :=
  ⟨_, ⟨defaultParams, [.load [0x6A, 0x2C], .step, .tick], 3, rfl⟩, by decide, by decide⟩

/-- The first state of a history, under parameters that are not the defaults. -/
theorem witness_EveryHistoryMeetsTheInvariant_start :
    Reached (State.start { defaultParams with shiftSrc := .vy } [.setKeys 0x8000]) :=
  ⟨_, _, 0, rfl⟩

theorem witness_ParametersNeverChange : ∃ s t : State, step s = .next t := ⟨busy, _, rfl⟩

/-- A load of V0 to V14 leaves V15. -/
theorem witness_RegistersAreWrittenOnlyWhereNamed : ∃ s t : State, exec (.ldVxMem 0xE) s = .next t ∧
    writesReg (.ldVxMem 0xE) 0xF = false := ⟨State.reset, _, rfl, by decide⟩

theorem witness_InstructionsWriteOnlyTheirParts : ∃ s t : State, exec (.drw 0 0 15) s = .next t :=
  ⟨State.reset, _, rfl⟩

theorem witness_EveryOtherInstructionAdvancesPc : setsPc (.ldVxMem 0xF) = false := by decide

/-- T2: the word 1200 at 0x200. -/
theorem witness_IdleLoopStays : AtIdleLoop (start 0x1200) ∧ StepIsNext (start 0x1200) := by
  refine ⟨⟨⟨by decide, by decide⟩, 0x200, by decide, by decide⟩, ?_⟩
  simp only [StepIsNext]
  decide

end Sys2Proof.Machine.Tests
end

section
/-! SUPPORT. What the step event, the host's other events and one step of the machine can do, each said once
(spec/40_instruction_cycle.md R80 to R88). -/

namespace Sys2Proof.Machine

/-! ### The step event, case by case (R82, R83, R88) -/

theorem cycle_of_not_running (s : State) (h : ¬Running s) : cycle s = .next s := by
  unfold cycle
  cases hh : s.halted
  · cases hw : s.waiting
    · exact absurd ⟨hh, hw⟩ h
    · rfl
  · rfl

theorem cycle_of_fetch_none (s : State) (hr : Running s) (hf : fetch s = none) :
    cycle s = .next (s.raise .outOfBoundsFetch 0) := by
  simp [cycle, hr.1, hr.2, hf]

theorem cycle_of_decode_error (s : State) (w : Word) (e : DecodeError) (hr : Running s) (hf : fetch s = some w)
    (hd : decode w = .error e) : cycle s = .next (s.raise .unknownOpcode w) := by
  simp [cycle, hr.1, hr.2, hf, hd]

theorem cycle_of_decode_ok (s : State) (w : Word) (i : Instr) (hr : Running s) (hf : fetch s = some w)
    (hd : decode w = .ok i) : cycle s = exec i s := by
  simp [cycle, hr.1, hr.2, hf, hd]

/-- Everything a step event can do: nothing while halted or waiting, one of the two fetch faults, or the instruction. -/
theorem cycle_cases (s : State) :
    (¬Running s ∧ cycle s = .next s) ∨
    (Running s ∧ fetch s = none ∧ cycle s = .next (s.raise .outOfBoundsFetch 0)) ∨
    (Running s ∧ ∃ w e, fetch s = some w ∧ decode w = .error e ∧ cycle s = .next (s.raise .unknownOpcode w)) ∨
    (Running s ∧ ∃ w i, fetch s = some w ∧ decode w = .ok i ∧ cycle s = exec i s) := by
  by_cases hr : Running s
  · cases hf : fetch s with
    | none => exact .inr (.inl ⟨hr, rfl, cycle_of_fetch_none s hr hf⟩)
    | some w =>
      cases hd : decode w with
      | error e => exact .inr (.inr (.inl ⟨hr, w, e, rfl, hd, cycle_of_decode_error s w e hr hf hd⟩))
      | ok i => exact .inr (.inr (.inr ⟨hr, w, i, rfl, hd, cycle_of_decode_ok s w i hr hf hd⟩))
  · exact .inl ⟨hr, cycle_of_not_running s hr⟩

/-! ### Which event a step is (R80, R81) -/

theorem step_of_schedule_nil (s : State) (h : s.schedule = []) : step s = cycle s := by
  simp [step, nextEvent, h]

theorem step_of_schedule_cons (s : State) (e : Event) (es : List Event) (h : s.schedule = e :: es) :
    step s = applyEvent e { s with schedule := es } := by
  simp [step, nextEvent, h]

end Sys2Proof.Machine
end

section
/-! SUPPORT. No operation, instruction or event writes the configuration (spec/00_scope.md R4). -/

namespace Sys2Proof.Machine

/-! ### The shared operations -/

@[simp] theorem State.params_storeBytes (s : State) (base : Word) (k : Nat) (bs : List Byte) :
    (s.storeBytes base k bs).params = s.params := by
  obtain ⟨m, hm⟩ := s.storeBytes_eq base k bs
  rw [hm]

@[simp] theorem State.params_loadRegs (s : State) (base : Word) (n : Nat) : (s.loadRegs base n).params = s.params := by
  obtain ⟨w, hw⟩ := s.loadRegs_eq base n
  rw [hw]

@[simp] theorem State.params_writeThenFlag (s : State) (x : Reg) (b : Byte) (f : Bool) :
    (s.writeThenFlag x b f).params = s.params := rfl

@[simp] theorem State.params_shiftWithFlag (s : State) (x src : Reg) (f g : Byte → Byte) :
    (s.shiftWithFlag x src f g).params = s.params := by
  obtain ⟨w, hw⟩ := s.shiftWithFlag_eq x src f g
  rw [hw]

/-! ### The instructions -/

theorem execRet_keeps_params {s t : State} (h : execRet s = .next t) : t.params = s.params := by
  unfold execRet at h
  obtain ⟨_, _, hp⟩ | ⟨_, hp⟩ | ⟨_, hp⟩ := s.pop_cases (encode .ret) fun a u => .next (u.setPc a)
  · cases hp.symm.trans h; rfl
  · cases hp.symm.trans h; rfl
  · cases hp.symm.trans h

theorem execCallAddr_keeps_params {nnn : Addr} {s t : State} (h : execCallAddr nnn s = .next t) :
    t.params = s.params := by
  unfold execCallAddr at h
  obtain ⟨_, hp⟩ | ⟨_, hp⟩ | ⟨_, hp⟩ :=
    s.push_cases (s.pc + 2) (encode (.callAddr nnn)) fun u => .next (u.setPc (addrWord nnn))
  · cases hp.symm.trans h; rfl
  · cases hp.symm.trans h; rfl
  · cases hp.symm.trans h

/-- The call stack's two instructions may fault or stop; every other one answers one next state, built from operations that
keep the configuration. -/
theorem exec_keeps_params {i : Instr} {s t : State} (h : exec i s = .next t) : t.params = s.params := by
  cases i with
  | ret => exact execRet_keeps_params h
  | callAddr nnn => exact execCallAddr_keeps_params h
  | _ => cases h; simp

/-! ### The events -/

theorem cycle_keeps_params {s t : State} (h : cycle s = .next t) : t.params = s.params := by
  obtain ⟨_, hc⟩ | ⟨_, _, hc⟩ | ⟨_, _, _, _, _, hc⟩ | ⟨_, _, _, _, _, hc⟩ := cycle_cases s
  · cases hc.symm.trans h; rfl
  · cases hc.symm.trans h; rfl
  · cases hc.symm.trans h; rfl
  · exact exec_keeps_params (hc.symm.trans h)

@[simp] theorem State.params_resetEvent (s : State) : s.resetEvent.params = s.params := rfl

@[simp] theorem State.params_load (s : State) (rom : List Byte) : (s.load rom).params = s.params := by
  unfold State.load
  split
  · rfl
  · exact s.params_storeBytes 0x200 0 rom

@[simp] theorem State.params_tick (s : State) : s.tick.params = s.params := rfl

@[simp] theorem State.params_completeWait (s : State) (k : Word) : (s.completeWait k).params = s.params := by
  simp only [State.completeWait]
  split <;> rfl

@[simp] theorem State.params_setKeys (s : State) (k : Word) : (s.setKeys k).params = s.params :=
  s.params_completeWait k

theorem applyEvent_keeps_params {e : Event} {s t : State} (h : applyEvent e s = .next t) : t.params = s.params := by
  cases e with
  | step => exact cycle_keeps_params h
  | reset | load rom | tick | setKeys k => cases h; simp

/-- Settles O55: the event is a step with none scheduled, else the head of the schedule, and neither writes the
configuration. -/
theorem parametersNeverChange : Obligations.ParametersNeverChange := by
  intro s t h
  cases hs : s.schedule with
  | nil => exact cycle_keeps_params ((step_of_schedule_nil s hs).symm.trans h)
  | cons e es =>
    exact applyEvent_keeps_params (s := { s with schedule := es }) ((step_of_schedule_cons s e es hs).symm.trans h)

end Sys2Proof.Machine
end

section
/-! SUPPORT. The frame of every instruction: how frames compose, what each update of the state leaves alone, and the parts
and registers an instruction may write (spec/10_state.md R11 to R16, R20 to R26). -/

namespace Sys2Proof.Machine

variable {s t u : State} {c d : List Part}

/-! ### Frames compose -/

theorem SamePart.trans {p : Part} (h₁ : SamePart s t p) (h₂ : SamePart t u p) : SamePart s u p := by
  cases p <;> simp_all [SamePart]

theorem KeepsAllBut.samePart (h : KeepsAllBut c s t) {p : Part} (hp : p ∉ c) : SamePart s t p := by
  obtain ⟨_, _, hparts⟩ := h
  exact hparts p hp

theorem KeepsAllBut.mono (hsub : c ⊆ d) (h : KeepsAllBut c s t) : KeepsAllBut d s t := by
  obtain ⟨hparams, hsched, hparts⟩ := h
  exact ⟨hparams, hsched, fun p hp => hparts p fun hc => hp (hsub hc)⟩

theorem KeepsAllBut.trans (h₁ : KeepsAllBut c s t) (h₂ : KeepsAllBut d t u) : KeepsAllBut (c ++ d) s u := by
  obtain ⟨hparams₁, hsched₁, hparts₁⟩ := h₁
  obtain ⟨hparams₂, hsched₂, hparts₂⟩ := h₂
  refine ⟨hparams₂.trans hparams₁, hsched₂.trans hsched₁, fun p hp => ?_⟩
  rw [List.mem_append, not_or] at hp
  exact (hparts₁ p hp.1).trans (hparts₂ p hp.2)

/-! ### One frame per field of the state -/

theorem keepsAllBut_with_pc (s : State) (a : Word) : KeepsAllBut [] s { s with pc := a } :=
  ⟨rfl, rfl, fun p _ => by cases p <;> simp [SamePart, State.reg, State.readByte]⟩

theorem keepsAllBut_with_v (s : State) (w : Vector Byte 16) : KeepsAllBut [.regs] s { s with v := w } :=
  ⟨rfl, rfl, fun p hp => by cases p <;> simp_all [SamePart, State.readByte]⟩

theorem keepsAllBut_with_idx (s : State) (a : Word) : KeepsAllBut [.index] s { s with idx := a } :=
  ⟨rfl, rfl, fun p hp => by cases p <;> simp_all [SamePart, State.reg, State.readByte]⟩

theorem keepsAllBut_with_stack (s : State) (n : BitVec 8) (k : Vector Word 16) :
    KeepsAllBut [.stack] s { s with sp := n, stack := k } :=
  ⟨rfl, rfl, fun p hp => by cases p <;> simp_all [SamePart, State.reg, State.readByte]⟩

theorem keepsAllBut_with_mem (s : State) (m : Memory) : KeepsAllBut [.memory] s { s with mem := m } :=
  ⟨rfl, rfl, fun p hp => by cases p <;> simp_all [SamePart, State.reg]⟩

theorem keepsAllBut_with_fb (s : State) (f : Display) : KeepsAllBut [.display] s { s with fb := f } :=
  ⟨rfl, rfl, fun p hp => by cases p <;> simp_all [SamePart, State.reg, State.readByte]⟩

theorem keepsAllBut_with_dt (s : State) (b : Byte) : KeepsAllBut [.delayTimer] s { s with dt := b } :=
  ⟨rfl, rfl, fun p hp => by cases p <;> simp_all [SamePart, State.reg, State.readByte]⟩

theorem keepsAllBut_with_st (s : State) (b : Byte) : KeepsAllBut [.soundTimer] s { s with st := b } :=
  ⟨rfl, rfl, fun p hp => by cases p <;> simp_all [SamePart, State.reg, State.readByte]⟩

theorem keepsAllBut_with_waiting (s : State) (w : Bool) (x : Reg) :
    KeepsAllBut [.waitLatches] s { s with waiting := w, waitX := x } :=
  ⟨rfl, rfl, fun p hp => by cases p <;> simp_all [SamePart, State.reg, State.readByte]⟩

theorem keepsAllBut_with_draws (s : State) (n : Nat) : KeepsAllBut [.draws] s { s with draws := n } :=
  ⟨rfl, rfl, fun p hp => by cases p <;> simp_all [SamePart, State.reg, State.readByte]⟩

theorem State.raise_keepsAllBut (s : State) (e : Cause) (w : Word) : KeepsAllBut [.errLatches] s (s.raise e w) := by
  obtain ⟨_, _, _, _, _, h⟩ := s.raise_faultEntered e w
  exact h

/-! ### Frames of the operations whose result is not written as one update -/

theorem State.storeBytes_keepsAllBut (s : State) (base : Word) (k : Nat) (bs : List Byte) :
    KeepsAllBut [.memory] s (s.storeBytes base k bs) := by
  obtain ⟨m, hm⟩ := s.storeBytes_eq base k bs
  exact hm ▸ keepsAllBut_with_mem s m

theorem State.loadRegs_keepsAllBut (s : State) (base : Word) (n : Nat) :
    KeepsAllBut [.regs] s (s.loadRegs base n) := by
  obtain ⟨w, hw⟩ := s.loadRegs_eq base n
  exact hw ▸ keepsAllBut_with_v s w

theorem State.shiftWithFlag_keepsAllBut (s : State) (x src : Reg) (f g : Byte → Byte) :
    KeepsAllBut [.regs] s (s.shiftWithFlag x src f g) := by
  obtain ⟨w, hw⟩ := s.shiftWithFlag_eq x src f g
  exact hw ▸ keepsAllBut_with_v s w

/-! ### The two instructions of the call stack -/

/-- Everything a return can answer: the popped address in PC, or the underflow fault. -/
theorem execRet_cases (h : execRet s = .next t) :
    (∃ hk : s.sp.toNat - 1 < 16, 0 < s.sp.toNat ∧
      t = State.setPc { s with sp := s.sp - 1 } (s.stack[s.sp.toNat - 1]'hk)) ∨
    (s.sp = 0 ∧ t = s.raise .stackUnderflow (encode .ret)) := by
  unfold execRet at h
  obtain ⟨hk, hpos, hp⟩ | ⟨hz, hp⟩ | ⟨_, hp⟩ := s.pop_cases (encode .ret) fun a u => .next (u.setPc a)
  · cases hp.symm.trans h
    exact .inl ⟨hk, hpos, rfl⟩
  · cases hp.symm.trans h
    exact .inr ⟨hz, rfl⟩
  · cases hp.symm.trans h

/-- Everything a call can answer: the next address pushed and the target in PC, or the overflow fault. -/
theorem execCallAddr_cases {nnn : Addr} (h : execCallAddr nnn s = .next t) :
    (∃ hk : s.sp.toNat < 16,
      t = State.setPc { s with stack := s.stack.set s.sp.toNat (s.pc + 2) hk, sp := s.sp + 1 } (addrWord nnn)) ∨
    (s.sp = 16 ∧ t = s.raise .stackOverflow (encode (.callAddr nnn))) := by
  unfold execCallAddr at h
  obtain ⟨hk, hp⟩ | ⟨hf, hp⟩ | ⟨_, hp⟩ :=
    s.push_cases (s.pc + 2) (encode (.callAddr nnn)) fun u => .next (u.setPc (addrWord nnn))
  · cases hp.symm.trans h
    exact .inl ⟨hk, rfl⟩
  · cases hp.symm.trans h
    exact .inr ⟨hf, rfl⟩
  · cases hp.symm.trans h

theorem execRet_keepsAllBut (h : execRet s = .next t) : KeepsAllBut [.stack, .errLatches] s t := by
  obtain ⟨hk, _, rfl⟩ | ⟨_, rfl⟩ := execRet_cases h
  · exact ((keepsAllBut_with_stack s _ _).trans (keepsAllBut_with_pc _ _)).mono (by simp)
  · exact (s.raise_keepsAllBut _ _).mono (by simp)

theorem execCallAddr_keepsAllBut {nnn : Addr} (h : execCallAddr nnn s = .next t) :
    KeepsAllBut [.stack, .errLatches] s t := by
  obtain ⟨hk, rfl⟩ | ⟨_, rfl⟩ := execCallAddr_cases h
  · exact ((keepsAllBut_with_stack s _ _).trans (keepsAllBut_with_pc _ _)).mono (by simp)
  · exact (s.raise_keepsAllBut _ _).mono (by simp)

/-! ### Every instruction -/

theorem exec_keepsAllBut {i : Instr} (h : exec i s = .next t) : KeepsAllBut (writesPart i) s t := by
  cases i with
  | ret => exact execRet_keepsAllBut h
  | callAddr nnn => exact execCallAddr_keepsAllBut h
  | jpAddr nnn | jpV0 nnn | seByte x nn | sneByte x nn | seReg x y | sneReg x y | skp x | sknp x =>
    cases h; exact keepsAllBut_with_pc s _
  | ldByte x nn | addByte x nn | ldReg x y | orReg x y | andReg x y | xorReg x y | addReg x y | subReg x y | subn x y
  | ldVxDt x =>
    cases h; exact (keepsAllBut_with_v s _).trans (keepsAllBut_with_pc _ _)
  | shr x y | shl x y =>
    cases h; exact (s.shiftWithFlag_keepsAllBut x _ _ _).trans (keepsAllBut_with_pc _ _)
  | rnd x nn =>
    cases h; exact ((keepsAllBut_with_v s _).trans (keepsAllBut_with_draws _ _)).trans (keepsAllBut_with_pc _ _)
  | cls => cases h; exact (keepsAllBut_with_fb s _).trans (keepsAllBut_with_pc _ _)
  | drw x y n =>
    cases h
    exact (((keepsAllBut_with_fb s _).trans (keepsAllBut_with_v _ _)).trans (keepsAllBut_with_pc _ _)).mono
      (by simp [writesPart])
  | ldI nnn | addI x | ldF x => cases h; exact (keepsAllBut_with_idx s _).trans (keepsAllBut_with_pc _ _)
  | ldDtVx x => cases h; exact (keepsAllBut_with_dt s _).trans (keepsAllBut_with_pc _ _)
  | ldStVx x => cases h; exact (keepsAllBut_with_st s _).trans (keepsAllBut_with_pc _ _)
  | ldVxK x => cases h; exact keepsAllBut_with_waiting s _ _
  | ldB x => cases h; exact (s.storeBytes_keepsAllBut _ _ _).trans (keepsAllBut_with_pc _ _)
  | ldMemVx x =>
    cases h
    exact ((s.storeBytes_keepsAllBut _ _ _).trans (keepsAllBut_with_idx _ _)).trans (keepsAllBut_with_pc _ _)
  | ldVxMem x =>
    cases h
    exact ((s.loadRegs_keepsAllBut _ _).trans (keepsAllBut_with_idx _ _)).trans (keepsAllBut_with_pc _ _)

/-- Settles O57: the frame of each instruction is the composition of the frames of the operations its meaning names. -/
theorem instructionsWriteOnlyTheirParts : Obligations.InstructionsWriteOnlyTheirParts :=
  fun _ _ _ h => exec_keepsAllBut h

end Sys2Proof.Machine
end

section
/-! SUPPORT. Which general registers an instruction writes (spec/10_state.md R11, R12). -/

namespace Sys2Proof.Machine

theorem State.reg_shiftWithFlag_ne (s : State) (x src r : Reg) (f g : Byte → Byte) (hx : r ≠ x) (hf : r ≠ vf) :
    (s.shiftWithFlag x src f g).reg r = s.reg r := by
  unfold State.shiftWithFlag
  cases s.params.shiftVfOrder <;> simp [hx, hf]

theorem State.reg_writeThenFlag_ne (s : State) (x r : Reg) (b : Byte) (f : Bool) (hx : r ≠ x) (hf : r ≠ vf) :
    (s.writeThenFlag x b f).reg r = s.reg r := by
  rw [s.reg_writeThenFlag, if_neg hf, if_neg hx]

/-- An instruction that writes registers names them: its destination, VF, or V0 to V[x]. All others keep the whole part. -/
theorem exec_reg_of_not_written {i : Instr} {s t : State} {r : Reg} (h : exec i s = .next t)
    (hr : writesReg i r = false) : t.reg r = s.reg r := by
  cases i with
  | ldByte x nn | addByte x nn | ldReg x y | orReg x y | andReg x y | xorReg x y | rnd x nn | ldVxDt x =>
    cases h; exact s.reg_setReg_ne x r _ (by simpa [writesReg] using hr)
  | addReg x y | subReg x y | subn x y =>
    obtain ⟨hx, hf⟩ : r ≠ x ∧ r ≠ vf := by simpa [writesReg] using hr
    cases h; exact s.reg_writeThenFlag_ne x r _ _ hx hf
  | shr x y | shl x y =>
    obtain ⟨hx, hf⟩ : r ≠ x ∧ r ≠ vf := by simpa [writesReg] using hr
    cases h; exact s.reg_shiftWithFlag_ne x _ r _ _ hx hf
  | drw x y n => cases h; exact (s.setFb _).reg_setReg_ne vf r _ (by simpa [writesReg] using hr)
  | ldVxMem x =>
    have hx : ¬ r.toNat < x.toNat + 1 := by simpa [writesReg, Nat.lt_succ_iff] using hr
    cases h; exact (s.reg_loadRegs s.idx (x.toNat + 1) x.isLt r).trans (if_neg hx)
  | _ => exact (exec_keepsAllBut h).samePart (p := .regs) (by simp [writesPart]) r

/-- Settles O56, by the cases of `exec_reg_of_not_written`. -/
theorem registersAreWrittenOnlyWhereNamed : Obligations.RegistersAreWrittenOnlyWhereNamed :=
  fun _ _ _ _ h hr => exec_reg_of_not_written h hr

end Sys2Proof.Machine
end

section
/-! SUPPORT. Where the model answers a next state, and its one stop: an SP above 16 (log 4). -/

namespace Sys2Proof.Machine

variable {s : State}

/-! ### Below the stop -/

theorem execRet_answers (hsp : s.sp.toNat ≤ 16) : ∃ t, execRet s = .next t := by
  obtain ⟨_, _, h⟩ | ⟨_, h⟩ | ⟨hgt, _⟩ := s.pop_cases (encode .ret) fun a u => .next (u.setPc a)
  · exact ⟨_, h⟩
  · exact ⟨_, h⟩
  · omega

theorem execCallAddr_answers (hsp : s.sp.toNat ≤ 16) (nnn : Addr) : ∃ t, execCallAddr nnn s = .next t := by
  obtain ⟨_, h⟩ | ⟨_, h⟩ | ⟨hgt, _⟩ :=
    s.push_cases (s.pc + 2) (encode (.callAddr nnn)) fun u => .next (u.setPc (addrWord nnn))
  · exact ⟨_, h⟩
  · exact ⟨_, h⟩
  · omega

/-- Only the call stack's two instructions can stop the model, and only above SP = 16 (log 4). -/
theorem exec_answers (hsp : s.sp.toNat ≤ 16) (i : Instr) : ∃ t, exec i s = .next t := by
  cases i with
  | ret => exact execRet_answers hsp
  | callAddr nnn => exact execCallAddr_answers hsp nnn
  | _ => exact ⟨_, rfl⟩

theorem cycle_answers (hsp : s.sp.toNat ≤ 16) : ∃ t, cycle s = .next t := by
  obtain ⟨_, h⟩ | ⟨_, _, h⟩ | ⟨_, _, _, _, _, h⟩ | ⟨_, _, i, _, _, h⟩ := cycle_cases s
  · exact ⟨_, h⟩
  · exact ⟨_, h⟩
  · exact ⟨_, h⟩
  · exact h ▸ exec_answers hsp i

theorem applyEvent_answers (hsp : s.sp.toNat ≤ 16) (e : Event) : ∃ t, applyEvent e s = .next t := by
  cases e with
  | step => exact cycle_answers hsp
  | reset | load rom | tick | setKeys k => exact ⟨_, rfl⟩

theorem step_answers (hsp : s.sp.toNat ≤ 16) : ∃ t, step s = .next t := by
  cases hs : s.schedule with
  | nil => exact step_of_schedule_nil s hs ▸ cycle_answers hsp
  | cons e es => exact step_of_schedule_cons s e es hs ▸ applyEvent_answers (s := { s with schedule := es }) hsp e

/-! ### The stop -/

theorem execRet_of_gt (h : 16 < s.sp.toNat) : execRet s = .fault .stackPointerOutOfRange :=
  s.pop_of_gt (encode .ret) (fun a u => .next (u.setPc a)) h

theorem execCallAddr_of_gt (h : 16 < s.sp.toNat) (nnn : Addr) :
    execCallAddr nnn s = .fault .stackPointerOutOfRange :=
  s.push_of_gt (s.pc + 2) (encode (.callAddr nnn)) (fun u => .next (u.setPc (addrWord nnn))) h

/-- Settles O33: both instructions are their stack operation, which stops there. -/
theorem stackPointerAboveSixteenStops : Obligations.StackPointerAboveSixteenStops :=
  fun _ nnn h => ⟨execRet_of_gt h, execCallAddr_of_gt h nnn⟩

end Sys2Proof.Machine
end

section
/-! SUPPORT. The invariant of every history (spec/10_state.md R26, R31) holds at reset and is kept by every event, so
it holds throughout every history. -/

namespace Sys2Proof.Machine

variable {s t : State}

/-! ### At reset, and under the updates the invariant does not look at -/

theorem reset_inv : State.reset.Inv where
  memory_canonical := Memory.wf_nil _
  sp_in_bounds := by decide
  pc_in_bounds := by decide
  stack_in_bounds := by decide
  waits_on_fetched_pc := by decide
  err_code_legal := by decide
  halted_iff_error := by decide
  not_halted_and_waiting := by decide
  no_error_no_record := by decide

/-- R32: the reset values meet the invariant, whatever the model's own fields hold: an empty memory is canonical under
every font. -/
theorem inv_of_reset (p : Params) (n : Nat) (es : List Event) :
    State.Inv { State.reset with params := p, draws := n, schedule := es } :=
  { reset_inv with memory_canonical := Memory.wf_nil p.fontTable }

theorem start_inv (p : Params) (es : List Event) : (State.start p es).Inv := inv_of_reset p 0 es

/-- Settles O51: the reset values meet the invariant under any parameters and events. -/
theorem resetStateMeetsTheInvariant : Obligations.ResetStateMeetsTheInvariant :=
  fun p es => ⟨start_inv p es, rfl, rfl⟩

theorem State.Inv.with_schedule (hi : s.Inv) (es : List Event) : State.Inv { s with schedule := es } := { hi with }

theorem State.Inv.tick (hi : s.Inv) : s.tick.Inv := { hi with }

theorem State.Inv.with_loadErr (hi : s.Inv) (b : Bool) : State.Inv { s with loadErr := b } := { hi with }

theorem State.Inv.with_keys (hi : s.Inv) (k : Word) : State.Inv { s with keys := k } := { hi with }

/-! ### Fault entry, and changes outside the stack and the latches -/

theorem Cause.two_le_code_le_five (c : Cause) : 2 ≤ c.code.toNat ∧ c.code.toNat ≤ 5 := by cases c <;> decide

theorem Cause.code_ne_zero (c : Cause) : c.code ≠ 0 := by cases c <;> decide

/-- R168: a core that is not waiting may halt with the code of any cause. -/
theorem State.Inv.raise (hi : s.Inv) (hw : s.waiting = false) (c : Cause) (w : Word) : (s.raise c w).Inv :=
  { hi with
    err_code_legal := .inr c.two_le_code_le_five
    halted_iff_error := ⟨fun _ => c.code_ne_zero, fun _ => rfl⟩
    not_halted_and_waiting := fun h => by simp [hw] at h
    no_error_no_record := fun h => absurd h c.code_ne_zero }

/-- What a change outside the stack and the latches must still show: canonical memory and a bound on PC. -/
theorem State.Inv.of_keepsAllBut {c : List Part} (hi : s.Inv) (hk : KeepsAllBut c s t) (hstack : .stack ∉ c)
    (hwait : .waitLatches ∉ c) (herr : .errLatches ∉ c) (hrun : s.waiting = false)
    (hmem : Memory.wf t.params.fontTable t.mem = true) (hpc : t.pc.toNat ≤ 0x10FE) : t.Inv := by
  obtain ⟨hsp, hst⟩ : t.sp = s.sp ∧ t.stack = s.stack := hk.samePart hstack
  obtain ⟨hwaiting, _⟩ : t.waiting = s.waiting ∧ t.waitX = s.waitX := hk.samePart hwait
  obtain ⟨hh, hc, ho, hp⟩ :
      t.halted = s.halted ∧ t.errCode = s.errCode ∧ t.errOpcode = s.errOpcode ∧ t.errPc = s.errPc :=
    hk.samePart herr
  exact
    { memory_canonical := hmem
      sp_in_bounds := hsp ▸ hi.sp_in_bounds
      pc_in_bounds := hpc
      stack_in_bounds := hst ▸ hi.stack_in_bounds
      waits_on_fetched_pc := fun h => by simp [hwaiting, hrun] at h
      err_code_legal := hc ▸ hi.err_code_legal
      halted_iff_error := hh ▸ hc ▸ hi.halted_iff_error
      not_halted_and_waiting := hh ▸ hwaiting ▸ hi.not_halted_and_waiting
      no_error_no_record := hc ▸ ho ▸ hp ▸ hi.no_error_no_record }

/-! ### PC after an instruction (R31, R85, R103) -/

@[simp] theorem State.pc_storeBytes (s : State) (base : Word) (k : Nat) (bs : List Byte) :
    (s.storeBytes base k bs).pc = s.pc := by
  obtain ⟨m, hm⟩ := s.storeBytes_eq base k bs
  rw [hm]

@[simp] theorem State.pc_loadRegs (s : State) (base : Word) (n : Nat) : (s.loadRegs base n).pc = s.pc := by
  obtain ⟨w, hw⟩ := s.loadRegs_eq base n
  rw [hw]

@[simp] theorem State.pc_writeThenFlag (s : State) (x : Reg) (b : Byte) (f : Bool) :
    (s.writeThenFlag x b f).pc = s.pc := rfl

@[simp] theorem State.pc_shiftWithFlag (s : State) (x src : Reg) (f g : Byte → Byte) :
    (s.shiftWithFlag x src f g).pc = s.pc := by
  obtain ⟨w, hw⟩ := s.shiftWithFlag_eq x src f g
  rw [hw]

/-- R85, R86: an instruction that does not set PC itself ends with the default advance. -/
theorem exec_pc_of_setsPc_eq_false {i : Instr} (hi : setsPc i = false) (h : exec i s = .next t) : t.pc = s.pc + 2 := by
  cases i with
  | ret | jpAddr nnn | callAddr nnn | jpV0 nnn | seByte x nn | sneByte x nn | seReg x y | sneReg x y | skp x | sknp x
  | ldVxK x => cases hi
  | _ => cases h; simp

theorem toNat_add_two_le {a : Word} (h : a.toNat ≤ 0xFFE) : (a + 2).toNat ≤ 0x1000 := by
  rw [BitVec.toNat_add_of_lt (y := 2) (by change _ + 2 < _; omega)]
  exact Nat.add_le_add_right h 2

theorem toNat_add_four_le {a : Word} (h : a.toNat ≤ 0xFFE) : (a + 4).toNat ≤ 0x1002 := by
  rw [BitVec.toNat_add_of_lt (y := 4) (by change _ + 4 < _; omega)]
  exact Nat.add_le_add_right h 4

theorem State.pc_skipIf_le (h : s.pc.toNat ≤ 0xFFE) (c : Bool) : (s.skipIf c).pc.toNat ≤ 0x10FE := by
  cases c with
  | true => exact (toNat_add_four_le h).trans (by decide)
  | false => exact (toNat_add_two_le h).trans (by decide)

theorem toNat_addrWord (a : Addr) : (addrWord a).toNat = a.toNat :=
  BitVec.toNat_setWidth_of_le (by decide)

theorem toNat_byteWord (b : Byte) : (byteWord b).toNat = b.toNat :=
  BitVec.toNat_setWidth_of_le (by decide)

theorem toNat_addrWord_le (a : Addr) : (addrWord a).toNat ≤ 0x10FE := by
  have ha := a.isLt
  rw [toNat_addrWord]
  omega

/-- R103: the largest PC there is, 0xFFF + 0xFF. -/
theorem toNat_addrWord_add_byteWord_le (a : Addr) (b : Byte) : (addrWord a + byteWord b).toNat ≤ 0x10FE := by
  have ha := a.isLt
  have hb := b.isLt
  rw [BitVec.toNat_add, toNat_addrWord, toNat_byteWord]
  omega

/-- R31: an instruction fetched from inside memory leaves PC within its bound; a popped address has the stack's bound. -/
theorem exec_pc_le {i : Instr} (hi : s.Inv) (hpc : s.pc.toNat ≤ 0xFFE) (h : exec i s = .next t) :
    t.pc.toNat ≤ 0x10FE := by
  cases i with
  | ret =>
    obtain ⟨hk, _, rfl⟩ | ⟨_, rfl⟩ := execRet_cases h
    · exact (hi.stack_in_bounds ⟨_, hk⟩).trans (by decide)
    · exact hi.pc_in_bounds
  | callAddr nnn =>
    obtain ⟨_, rfl⟩ | ⟨_, rfl⟩ := execCallAddr_cases h
    · exact toNat_addrWord_le nnn
    · exact hi.pc_in_bounds
  | jpAddr nnn => cases h; exact toNat_addrWord_le nnn
  | jpV0 nnn => cases h; exact toNat_addrWord_add_byteWord_le nnn _
  | seByte x nn | sneByte x nn | seReg x y | sneReg x y | skp x | sknp x => cases h; exact State.pc_skipIf_le hpc _
  | ldVxK x => cases h; exact hi.pc_in_bounds
  | _ => exact exec_pc_of_setsPc_eq_false rfl h ▸ (toNat_add_two_le hpc).trans (by decide)

/-! ### Memory after an instruction (log 6) -/

@[simp] theorem State.mem_loadRegs (s : State) (base : Word) (n : Nat) : (s.loadRegs base n).mem = s.mem := by
  obtain ⟨w, hw⟩ := s.loadRegs_eq base n
  rw [hw]

@[simp] theorem State.mem_writeThenFlag (s : State) (x : Reg) (b : Byte) (f : Bool) :
    (s.writeThenFlag x b f).mem = s.mem := rfl

@[simp] theorem State.mem_shiftWithFlag (s : State) (x src : Reg) (f g : Byte → Byte) :
    (s.shiftWithFlag x src f g).mem = s.mem := by
  obtain ⟨w, hw⟩ := s.shiftWithFlag_eq x src f g
  rw [hw]

theorem exec_mem_of_not_written {i : Instr} (hi : .memory ∉ writesPart i) (h : exec i s = .next t) : t.mem = s.mem := by
  cases i with
  | ret => obtain ⟨_, _, rfl⟩ | ⟨_, rfl⟩ := execRet_cases h <;> rfl
  | callAddr nnn => obtain ⟨_, rfl⟩ | ⟨_, rfl⟩ := execCallAddr_cases h <;> rfl
  | ldB x | ldMemVx x => simp [writesPart] at hi
  | _ => cases h; simp

/-- FX33 and FX55 store inside the address space, so every instruction keeps the canonical form. -/
theorem exec_keeps_wf {i : Instr} (hm : Memory.wf s.params.fontTable s.mem = true) (h : exec i s = .next t) :
    Memory.wf t.params.fontTable t.mem = true := by
  rw [exec_keeps_params h]
  cases i with
  | ldB x | ldMemVx x => cases h; exact s.wf_storeBytes s.idx 0 _ hm
  | _ => rwa [exec_mem_of_not_written (by simp [writesPart]) h]

/-! ### Every instruction keeps the invariant -/

theorem toNat_sub_one {n : BitVec 8} (h : 0 < n.toNat) : (n - 1).toNat = n.toNat - 1 := BitVec.toNat_sub_of_le h

theorem toNat_add_one {n : BitVec 8} (h : n.toNat < 16) : (n + 1).toNat = n.toNat + 1 :=
  BitVec.toNat_add_of_lt (y := 1) (by change _ + 1 < _; omega)

/-- R100: SP goes down and the entries stay. -/
theorem execRet_keeps_inv (hi : s.Inv) (hrun : Running s) (hpc : s.pc.toNat ≤ 0xFFE) (h : execRet s = .next t) :
    t.Inv := by
  have hpc' : t.pc.toNat ≤ 0x10FE := exec_pc_le (i := .ret) hi hpc h
  obtain ⟨_, hpos, rfl⟩ | ⟨_, rfl⟩ := execRet_cases h
  · exact
      { hi with
        sp_in_bounds := (toNat_sub_one hpos).trans_le ((Nat.sub_le _ 1).trans hi.sp_in_bounds)
        pc_in_bounds := hpc'
        waits_on_fetched_pc := fun hw => absurd (hrun.2.symm.trans hw) (by decide) }
  · exact hi.raise hrun.2 _ _

/-- R102: the address after a fetched one is within the stack's bound. -/
theorem stack_set_le (hi : s.Inv) (hpc : s.pc.toNat ≤ 0xFFE) (hk : s.sp.toNat < 16) (j : Fin 16) :
    ((s.stack.set s.sp.toNat (s.pc + 2) hk)[j]).toNat ≤ 0x1000 := by
  rw [Fin.getElem_fin, Vector.getElem_set]
  split
  · exact toNat_add_two_le hpc
  · exact hi.stack_in_bounds j

/-- R102: SP goes up from below 16. -/
theorem execCallAddr_keeps_inv {nnn : Addr} (hi : s.Inv) (hrun : Running s) (hpc : s.pc.toNat ≤ 0xFFE)
    (h : execCallAddr nnn s = .next t) : t.Inv := by
  obtain ⟨hk, rfl⟩ | ⟨_, rfl⟩ := execCallAddr_cases h
  · exact
      { hi with
        sp_in_bounds := (toNat_add_one hk).trans_le hk
        pc_in_bounds := toNat_addrWord_le nnn
        stack_in_bounds := stack_set_le hi hpc hk
        waits_on_fetched_pc := fun hw => absurd (hrun.2.symm.trans hw) (by decide) }
  · exact hi.raise hrun.2 _ _

/-- R155: PC stays on the FX0A that was fetched, and a running core is not halted. -/
theorem State.Inv.awaitKey (hi : s.Inv) (hrun : Running s) (hpc : s.pc.toNat ≤ 0xFFE) (x : Reg) : (s.awaitKey x).Inv :=
  { hi with
    waits_on_fetched_pc := fun _ => hpc
    not_halted_and_waiting := fun hh => absurd (hrun.1.symm.trans hh.1) (by decide) }

theorem exec_keeps_inv {i : Instr} (hi : s.Inv) (hrun : Running s) (hpc : s.pc.toNat ≤ 0xFFE)
    (h : exec i s = .next t) : t.Inv := by
  cases i with
  | ret => exact execRet_keeps_inv hi hrun hpc h
  | callAddr nnn => exact execCallAddr_keeps_inv hi hrun hpc h
  | ldVxK x => cases h; exact hi.awaitKey hrun hpc x
  | _ =>
    exact hi.of_keepsAllBut (exec_keepsAllBut h) (by simp [writesPart]) (by simp [writesPart]) (by simp [writesPart])
      hrun.2 (exec_keeps_wf hi.memory_canonical h) (exec_pc_le hi hpc h)

/-! ### The events -/

theorem pc_le_of_fetch_eq_some {w : Word} (h : fetch s = some w) : s.pc.toNat ≤ 0xFFE := by
  unfold fetch at h
  split at h
  · assumption
  · cases h

theorem cycle_keeps_inv (hi : s.Inv) (h : cycle s = .next t) : t.Inv := by
  obtain ⟨_, hc⟩ | ⟨hr, _, hc⟩ | ⟨hr, _, _, _, _, hc⟩ | ⟨hr, _, _, hf, _, hc⟩ := cycle_cases s
  · cases hc.symm.trans h; exact hi
  · cases hc.symm.trans h; exact hi.raise hr.2 _ _
  · cases hc.symm.trans h; exact hi.raise hr.2 _ _
  · exact exec_keeps_inv hi hr (pc_le_of_fetch_eq_some hf) (hc.symm.trans h)

theorem State.Inv.load (hi : s.Inv) (rom : List Byte) : (s.load rom).Inv := by
  unfold State.load
  split
  · exact hi.with_loadErr true
  · have hwf := s.wf_storeBytes 0x200 0 rom hi.memory_canonical
    obtain ⟨m, hm⟩ := s.storeBytes_eq 0x200 0 rom
    rw [hm] at hwf ⊢
    exact
      { hi with
        memory_canonical := hwf
        sp_in_bounds := show (0 : BitVec 8).toNat ≤ 16 by decide
        pc_in_bounds := show (0x200 : Word).toNat ≤ 0x10FE by decide
        waits_on_fetched_pc := fun hw => nomatch hw
        not_halted_and_waiting := fun hh => nomatch hh.2 }

/-- R178: a waiting core moves on from the FX0A, whose address was fetched from. -/
theorem State.Inv.completeWait (hi : s.Inv) (k : Word) : (s.completeWait k).Inv := by
  simp only [State.completeWait]
  split
  · next hc =>
    have hw : s.waiting = true := (Bool.and_eq_true_iff.mp hc).1
    exact
      { hi with
        pc_in_bounds := (toNat_add_two_le (hi.waits_on_fetched_pc hw)).trans (by decide)
        waits_on_fetched_pc := fun hw => nomatch hw
        not_halted_and_waiting := fun hh => nomatch hh.2 }
  · exact hi

theorem applyEvent_keeps_inv {e : Event} (hi : s.Inv) (h : applyEvent e s = .next t) : t.Inv := by
  cases e with
  | reset => cases h; exact inv_of_reset _ _ _
  | load rom => cases h; exact hi.load rom
  | step => exact cycle_keeps_inv hi h
  | tick => cases h; exact hi.tick
  | setKeys k => cases h; exact (hi.completeWait k).with_keys k

theorem step_keeps_inv (hi : s.Inv) (h : step s = .next t) : t.Inv := by
  cases hs : s.schedule with
  | nil => exact cycle_keeps_inv hi ((step_of_schedule_nil s hs).symm.trans h)
  | cons e es => exact applyEvent_keeps_inv (hi.with_schedule es) ((step_of_schedule_cons s e es hs).symm.trans h)

/-- Settles O52: a step is a step event or the head of the schedule, and each event keeps the invariant. -/
theorem everyStepKeepsTheInvariant : Obligations.EveryStepKeepsTheInvariant :=
  fun _ _ hi h => step_keeps_inv hi h

/-! ### Histories (R81, R190) -/

theorem run_succ_of_step (k : Nat) (h : step s = .next t) :
    Host.Core.run core (k + 1) s = Host.Core.run core k t := by
  have hc : core.step s = .next t := h
  simp only [Host.Core.run, hc]

/-- From a state with the invariant every number of events answers a state with the invariant. -/
theorem run_keeps_inv (k : Nat) (hi : s.Inv) : ∃ t : State, Host.Core.run core k s = .next t ∧ t.Inv := by
  induction k generalizing s with
  | zero => exact ⟨s, rfl, hi⟩
  | succ k ih =>
    obtain ⟨t, ht⟩ := step_answers hi.sp_in_bounds
    rw [run_succ_of_step k ht]
    exact ih (step_keeps_inv hi ht)

/-- Settles O54: the initial state meets the invariant, and a run from a state that does answers one that does. -/
theorem everyHistoryMeetsTheInvariant : Obligations.EveryHistoryMeetsTheInvariant := by
  constructor
  · intro p es k
    obtain ⟨t, ht, _⟩ := run_keeps_inv k (start_inv p es)
    exact ⟨t, ht⟩
  · rintro s ⟨p, es, k, hs⟩
    obtain ⟨t, ht, hi⟩ := run_keeps_inv k (start_inv p es)
    cases ht.symm.trans hs
    exact hi

end Sys2Proof.Machine
end

section
/-! SUPPORT. The packed display and the buzzer (spec/10_state.md R29). -/

namespace Sys2Proof.Machine

/-- The packing sets bit `k` to pixel `k` and leaves the bits before it alone. -/
theorem getLsbD_packBits_succ (d : Display) (k j : Nat) (hj : j < 2048) :
    (packBits d (k + 1)).getLsbD j =
      ((packBits d k).getLsbD j || (Display.pixel d (Fin.ofNat 64 j) (Fin.ofNat 32 (j / 64)) && decide (j = k))) := by
  rw [packBits]
  by_cases hjk : j = k
  · subst hjk
    split <;> simp_all
  · split
    · simp [hjk, Ne.symm hjk]
    · simp [hjk]

theorem getLsbD_packBits (d : Display) (k j : Nat) (hj : j < 2048) :
    (packBits d k).getLsbD j = (Display.pixel d (Fin.ofNat 64 j) (Fin.ofNat 32 (j / 64)) && decide (j < k)) := by
  induction k with
  | zero => simp [packBits]
  | succ k ih =>
    rw [getLsbD_packBits_succ d k j hj, ih, ← Bool.and_or_distrib_left, ← Bool.decide_or,
      decide_eq_decide.mpr (Nat.lt_succ_iff_lt_or_eq (m := j) (n := k)).symm]

theorem State.getLsbD_fbOut (s : State) (px : Fin 64) (py : Fin 32) :
    s.fbOut.getLsbD (64 * py.val + px.val) = Display.pixel s.fb px py := by
  have hx := px.isLt
  have hy := py.isLt
  have hlt : 64 * py.val + px.val < 2048 := by omega
  have hcol : Fin.ofNat 64 (64 * py.val + px.val) = px := Fin.ext (by simp only [Fin.val_ofNat]; omega)
  have hrow : Fin.ofNat 32 ((64 * py.val + px.val) / 64) = py := Fin.ext (by simp only [Fin.val_ofNat]; omega)
  rw [State.fbOut, getLsbD_packBits s.fb 2048 _ hlt, hcol, hrow, decide_eq_true hlt, Bool.and_true]

theorem State.buzzer_iff (s : State) : s.buzzer = true ↔ s.st ≠ 0 := by
  rw [State.buzzer, bne_iff_ne]

/-- Settles O39, by the bits of the packed display. -/
theorem displayOutputIsRowMajor : Obligations.DisplayOutputIsRowMajor :=
  fun s => ⟨s.getLsbD_fbOut, s.buzzer_iff⟩

end Sys2Proof.Machine
end

section
/-! SUPPORT. What State.reset reads as (spec/10_state.md R32). -/

namespace Sys2Proof.Machine

theorem resetByte_outside (font : Vector Byte 80) {a : Nat} (h : ¬ (0x050 ≤ a ∧ a < 0x0A0)) : resetByte font a = 0 :=
  dif_neg h

theorem reset_readByte (a : Nat) : State.reset.readByte a = resetByte defaultFont a :=
  State.reset.readByte_of_empty rfl a

theorem reset_reg (r : Reg) : State.reset.reg r = 0 := by
  simp [State.reg, State.reset]

/-- Settles O48: the fields as they are written, memory through what an empty one reads as. -/
theorem resetStateHasTheTableValues : Obligations.ResetStateHasTheTableValues := by
  refine ⟨rfl, reset_reg, rfl, rfl, ?_, rfl, rfl, Display.pixel_clear, rfl, rfl, rfl, rfl, rfl, rfl, rfl, rfl, ?_, ?_⟩
  · decide
  · intro a ha
    rw [reset_readByte, resetByte_outside _ (by omega)]
  · rw [List.map_congr_left fun k _ => reset_readByte (0x050 + k)]
    decide

end Sys2Proof.Machine
end

section
/-! SUPPORT. The fetch on both sides of its bound, and what FX55 leaves at the addresses it stores to
(spec/20_memory.md R43, R44, R53). -/

namespace Sys2Proof.Machine

variable {s t : State}

theorem fetch_of_pc_le (h : s.pc.toNat ≤ 0xFFE) :
    fetch s = some (joinBytes (s.readByte s.pc.toNat) (s.readByte (s.pc.toNat + 1))) :=
  if_pos h

theorem fetch_of_lt_pc (h : 0xFFE < s.pc.toNat) : fetch s = none :=
  if_neg (Nat.not_le.mpr h)

/-- Settles O7: beyond the top nothing is fetched, so the step event is the fault entry of R168. -/
theorem fetchBeyondTheTopFaults : Obligations.FetchBeyondTheTopFaults := by
  intro s hnext hrun hpc
  refine ⟨s.raise .outOfBoundsFetch 0, ?_, s.raise_faultEntered .outOfBoundsFetch 0⟩
  rw [step_of_schedule_nil s hnext, cycle_of_fetch_none s hrun (fetch_of_lt_pc hpc)]

/-- R134: after FX55 the address of a stored register reads that register. -/
theorem readByte_of_exec_ldMemVx {x r : Reg} (h : exec (.ldMemVx x) s = .next t) (hr : r.toNat ≤ x.toNat) :
    t.readByte (dataAddr s.idx r.toNat) = s.reg r := by
  have hlen := s.length_firstRegs (x.toNat + 1)
  have hstored := s.readByte_storeBytes s.idx 0 (s.firstRegs (x.toNat + 1)) r.toNat (by omega) (by omega)
  rw [s.getElem_firstRegs, BitVec.ofNat_toNat, BitVec.setWidth_eq, Nat.zero_add] at hstored
  cases h
  simpa using hstored

/-- Settles O27: the two bytes the next fetch joins are registers `j` and `j + 1`, which FX55 stored. -/
theorem aStoreIsSeenByTheNextFetch : Obligations.AStoreIsSeenByTheNextFetch := by
  intro s t x j hexec hjx hpc hhigh hlow
  have hsucc : (j + 1).toNat = j.toNat + 1 :=
    BitVec.toNat_add_of_lt (y := 1) (Nat.lt_of_le_of_lt hjx x.isLt)
  rw [← hsucc] at hjx hlow
  rw [fetch_of_pc_le hpc, hlow, hhigh, readByte_of_exec_ldMemVx hexec hjx,
    readByte_of_exec_ldMemVx hexec (by omega)]

end Sys2Proof.Machine
end

section
/-! SUPPORT. Decoding what the encoder writes: the fields it fills are the fields the decoder reads
(spec/30_encoding.md R60 to R70). -/

namespace Sys2Proof

theorem decode_encode (i : Instr) (hi : WellFormed i = true) : decode (encode i) = .ok i := by
  cases i with
  | cls | ret => rfl
  | jpAddr | callAddr | ldI | jpV0 => simp [encode, decode, fieldOp_wordNNN, fieldNNN_wordNNN]
  | seByte | sneByte | ldByte | addByte | rnd =>
    simp [encode, decode, fieldOp_wordXNN, fieldX_wordXNN, fieldNN_wordXNN]
  | seReg | sneReg =>
    simp [encode, decode, fieldOp_wordXYN, fieldX_wordXYN, fieldY_wordXYN, fieldN_wordXYN]
  | ldReg | orReg | andReg | xorReg | addReg | subReg | shr | subn | shl =>
    simp [encode, decode, decodeGroup8, fieldOp_wordXYN, fieldX_wordXYN, fieldY_wordXYN, fieldN_wordXYN]
  | drw x y n =>
    have hn : n < 16 := of_decide_eq_true hi
    simp [encode, decode, fieldOp_wordXYN, fieldX_wordXYN, fieldY_wordXYN, fieldN_wordXYN, Nat.mod_eq_of_lt hn]
  | skp | sknp => simp [encode, decode, decodeGroupE, fieldOp_wordXNN, fieldX_wordXNN, fieldNN_wordXNN]
  | ldVxDt | ldVxK | ldDtVx | ldStVx | addI | ldF | ldB | ldMemVx | ldVxMem =>
    simp [encode, decode, decodeGroupF, fieldOp_wordXNN, fieldX_wordXNN, fieldNN_wordXNN]

theorem decodeBytes_encodeBytes (i : Instr) (hi : WellFormed i = true) (rest : List Byte) :
    decodeBytes (encodeBytes i ++ rest) = .ok (i, rest) := by
  rw [encodeBytes, List.cons_append, List.cons_append, List.nil_append, decodeBytes_two, joinBytes_halves,
    decode_encode i hi]
  rfl

/-- Settles O1: the round trip on words, and on the two bytes of a word with any bytes after them. -/
theorem decodeOfEncodeIsTheInstruction : Obligations.DecodeOfEncodeIsTheInstruction :=
  fun i hi => ⟨decode_encode i hi, decodeBytes_encodeBytes i hi⟩

/-- Settles O4: each word is the encoding of the instruction it decodes to. -/
theorem sampleWordsDecode : Obligations.SampleWordsDecode :=
  ⟨decode_encode .cls rfl, decode_encode (.callAddr 0xABC) rfl, decode_encode (.seByte 0xA 0x05) rfl,
    decode_encode (.addReg 0xA 0xB) rfl, decode_encode (.drw 0xF 0x0 1) rfl, decode_encode (.skp 0x1) rfl,
    decode_encode (.ldVxK 0x1) rfl, decode_encode (.ldF 0xA) rfl, decode_encode (.ldVxMem 0x2) rfl,
    decode_encode (.rnd 0x3 0x0F) rfl⟩

end Sys2Proof
end

section
/-! SUPPORT. Everything the decoder can answer for a word, said once: an instruction whose encoding is that word, or the
rejection of that word (spec/30_encoding.md R64, R70, R71). -/

namespace Sys2Proof

/-- An answer to `w` that loses nothing of it: a well-formed instruction that encodes to `w`, or the error that
carries `w`. -/
def ReadsBack (w : Word) : Except DecodeError Instr → Prop
  | .ok i => WellFormed i = true ∧ encode i = w
  | .error e => e = .unknownOpcode w

variable {w : Word} {op n : BitVec 4} {nn : Byte}

theorem ReadsBack.ite {c : Prop} [Decidable c] {a b : Except DecodeError Instr} (ha : c → ReadsBack w a)
    (hb : ¬c → ReadsBack w b) : ReadsBack w (if c then a else b) := by
  split
  case isTrue h => exact ha h
  case isFalse h => exact hb h

theorem wordNNN_of_fields (hop : fieldOp w = op) : wordNNN op (fieldNNN w) = w := by
  rw [← hop, wordNNN_fields]

theorem wordXNN_of_fields (hop : fieldOp w = op) (hnn : fieldNN w = nn) : wordXNN op (fieldX w) nn = w := by
  rw [← hop, ← hnn, wordXNN_fields]

theorem wordXYN_of_fields (hop : fieldOp w = op) (hn : fieldN w = n) : wordXYN op (fieldX w) (fieldY w) n = w := by
  rw [← hop, ← hn, wordXYN_fields]

theorem decodeGroup8_readsBack (hop : fieldOp w = 0x8#4) : ReadsBack w (decodeGroup8 w) := by
  unfold decodeGroup8
  iterate 9 refine .ite (fun hn => ⟨rfl, wordXYN_of_fields hop hn⟩) fun _ => ?_
  rfl

theorem decodeGroupE_readsBack (hop : fieldOp w = 0xE#4) : ReadsBack w (decodeGroupE w) := by
  unfold decodeGroupE
  iterate 2 refine .ite (fun hnn => ⟨rfl, wordXNN_of_fields hop hnn⟩) fun _ => ?_
  rfl

theorem decodeGroupF_readsBack (hop : fieldOp w = 0xF#4) : ReadsBack w (decodeGroupF w) := by
  unfold decodeGroupF
  iterate 9 refine .ite (fun hnn => ⟨rfl, wordXNN_of_fields hop hnn⟩) fun _ => ?_
  rfl

/-- The decoder's branches in order, `op` from 0x0 to 0xF. -/
theorem decode_readsBack (w : Word) : ReadsBack w (decode w) := by
  unfold decode
  -- 0x0
  refine .ite (fun _ => .ite (fun hw => ⟨rfl, hw.symm⟩) fun _ => .ite (fun hw => ⟨rfl, hw.symm⟩) fun _ => rfl)
    fun _ => ?_
  -- 0x1 and 0x2, then 0x3 and 0x4
  iterate 2 refine .ite (fun hop => ⟨rfl, wordNNN_of_fields hop⟩) fun _ => ?_
  iterate 2 refine .ite (fun hop => ⟨rfl, wordXNN_of_fields hop rfl⟩) fun _ => ?_
  -- 0x5
  refine .ite (fun hop => .ite (fun hn => ⟨rfl, wordXYN_of_fields hop hn⟩) fun _ => rfl) fun _ => ?_
  -- 0x6 and 0x7
  iterate 2 refine .ite (fun hop => ⟨rfl, wordXNN_of_fields hop rfl⟩) fun _ => ?_
  -- 0x8
  refine .ite decodeGroup8_readsBack fun _ => ?_
  -- 0x9
  refine .ite (fun hop => .ite (fun hn => ⟨rfl, wordXYN_of_fields hop hn⟩) fun _ => rfl) fun _ => ?_
  -- 0xA and 0xB, then 0xC
  iterate 2 refine .ite (fun hop => ⟨rfl, wordNNN_of_fields hop⟩) fun _ => ?_
  refine .ite (fun hop => ⟨rfl, wordXNN_of_fields hop rfl⟩) fun _ => ?_
  -- 0xD, whose row count is a 4-bit field
  refine .ite (fun hop => ⟨decide_eq_true (fieldN w).isLt, ?_⟩) fun _ => ?_
  · rw [encode, BitVec.ofNat_toNat, BitVec.setWidth_eq, wordXYN_of_fields hop rfl]
  -- 0xE, and 0xF as what is left
  refine .ite decodeGroupE_readsBack fun _ => decodeGroupF_readsBack ?_
  bv_omega

/-- Settles O2: the fields an instruction takes from a word are all of the word. -/
theorem encodeOfDecodeIsTheWord : Obligations.EncodeOfDecodeIsTheWord := by
  intro w i h
  have hread := decode_readsBack w
  rwa [h] at hread

theorem eq_unknownOpcode_of_decode_eq_error {e : DecodeError} (h : decode w = .error e) : e = .unknownOpcode w := by
  have hread := decode_readsBack w
  rwa [h] at hread

end Sys2Proof
end

section
/-! SUPPORT. The table's rows as field equations between a word and the row's bits, and the decoder against them
(spec/30_encoding.md R64, R70 to R72). -/

namespace Sys2Proof

variable {w c : Word}

/-! ### What a row accepts, read off its bits -/

theorem Row.accepts_op_iff (hc : wordNNN (fieldOp c) 0 = c) :
    Row.accepts ⟨c, 0xF000⟩ w = true ↔ fieldOp w = fieldOp c := by
  rw [← Row.accepts_op, hc]

theorem Row.accepts_op_n_iff (hc : wordXYN (fieldOp c) 0 0 (fieldN c) = c) :
    Row.accepts ⟨c, 0xF00F⟩ w = true ↔ fieldOp w = fieldOp c ∧ fieldN w = fieldN c := by
  rw [← Row.accepts_op_n, hc]

theorem Row.accepts_op_nn_iff (hc : wordXNN (fieldOp c) 0 (fieldNN c) = c) :
    Row.accepts ⟨c, 0xF0FF⟩ w = true ↔ fieldOp w = fieldOp c ∧ fieldNN w = fieldNN c := by
  rw [← Row.accepts_op_nn, hc]

/-! ### The rows are the rows of the instructions -/

theorem encodedOp (i : Instr) : Laws.EncodedOp.Statement i := by
  open Laws.EncodedOp in
  cases i
  exacts [cls, ret, jpAddr _, callAddr _, seByte _ _, sneByte _ _, seReg _ _, ldByte _ _, addByte _ _, ldReg _ _,
    orReg _ _, andReg _ _, xorReg _ _, addReg _ _, subReg _ _, shr _ _, subn _ _, shl _ _, sneReg _ _, ldI _, jpV0 _,
    rnd _ _, drw _ _ _, skp _, sknp _, ldVxDt _, ldVxK _, ldDtVx _, ldStVx _, addI _, ldF _, ldB _, ldMemVx _,
    ldVxMem _]

/-- The operands do not matter to a row: here every one is 0. -/
theorem opcodeRows_eq_map_rowOf : opcodeRows = [Instr.cls, .ret, .jpAddr 0, .callAddr 0, .seByte 0 0, .sneByte 0 0,
    .seReg 0 0, .ldByte 0 0, .addByte 0 0, .ldReg 0 0, .orReg 0 0, .andReg 0 0, .xorReg 0 0, .addReg 0 0, .subReg 0 0,
    .shr 0 0, .subn 0 0, .shl 0 0, .sneReg 0 0, .ldI 0, .jpV0 0, .rnd 0 0, .drw 0 0 0, .skp 0, .sknp 0, .ldVxDt 0,
    .ldVxK 0, .ldDtVx 0, .ldStVx 0, .addI 0, .ldF 0, .ldB 0, .ldMemVx 0, .ldVxMem 0].map rowOf := rfl

theorem exists_rowOf_eq {r : Row} (hr : r ∈ opcodeRows) : ∃ i, rowOf i = r := by
  rw [opcodeRows_eq_map_rowOf, List.mem_map] at hr
  exact hr.imp fun _ h => h.2

/-! ### The decoder against the rows -/

theorem rowOf_accepts_encode (i : Instr) : (rowOf i).accepts (encode i) = true := by
  have ⟨_, hop⟩ := encodedOp i
  cases i with
  | cls | ret => rfl
  | jpAddr | callAddr | seByte | sneByte | ldByte | addByte | ldI | jpV0 | rnd | drw =>
    exact (Row.accepts_op_iff (by rfl)).mpr hop
  | seReg | ldReg | orReg | andReg | xorReg | addReg | subReg | shr | subn | shl | sneReg =>
    exact (Row.accepts_op_n_iff (by rfl)).mpr ⟨hop, fieldN_wordXYN ..⟩
  | skp | sknp | ldVxDt | ldVxK | ldDtVx | ldStVx | addI | ldF | ldB | ldMemVx | ldVxMem =>
    exact (Row.accepts_op_nn_iff (by rfl)).mpr ⟨hop, fieldNN_wordXNN ..⟩

/-- A word its row accepts reaches the decoder's branch of that row, whatever its operand bits. -/
theorem decode_of_rowOf_accepts (i : Instr) (h : (rowOf i).accepts w = true) :
    ∃ j, decode w = .ok j ∧ rowOf j = rowOf i := by
  cases i with
  | cls | ret =>
    have hw := (Row.accepts_whole w _).mp h
    exact ⟨_, hw ▸ rfl, rfl⟩
  | jpAddr | callAddr | seByte | sneByte | ldByte | addByte | ldI | jpV0 | rnd | drw =>
    have hop := (Row.accepts_op_iff (by rfl)).mp h
    simp +decide [decode, hop, rowOf]
  | seReg | ldReg | orReg | andReg | xorReg | addReg | subReg | shr | subn | shl | sneReg =>
    have ⟨hop, hn⟩ := (Row.accepts_op_n_iff (by rfl)).mp h
    simp +decide [decode, decodeGroup8, hop, hn, rowOf]
  | skp | sknp | ldVxDt | ldVxK | ldDtVx | ldStVx | addI | ldF | ldB | ldMemVx | ldVxMem =>
    have ⟨hop, hnn⟩ := (Row.accepts_op_nn_iff (by rfl)).mp h
    simp +decide [decode, decodeGroupE, decodeGroupF, hop, hnn, rowOf]

theorem rowOf_accepts_of_decode {i : Instr} (h : decode w = .ok i) : (rowOf i).accepts w = true := by
  obtain ⟨-, rfl⟩ := encodeOfDecodeIsTheWord w i h
  exact rowOf_accepts_encode i

theorem decode_of_no_row_accepts (hnone : ∀ r ∈ opcodeRows, r.accepts w = false) :
    decode w = .error (.unknownOpcode w) := by
  cases hd : decode w with
  | error e => rw [eq_unknownOpcode_of_decode_eq_error hd]
  | ok i =>
    obtain ⟨hrow, -⟩ := encodedOp i
    exact absurd ((rowOf_accepts_of_decode hd).symm.trans (hnone _ hrow)) (by decide)

/-- Settles O3: every row is the row of an instruction, and the decoder answers one exactly where a row accepts. -/
theorem decoderAcceptsExactlyTheTableRows : Obligations.DecoderAcceptsExactlyTheTableRows := by
  refine fun w => ⟨fun r hr hacc => ?_, fun i hi => ⟨(encodedOp i).1, rowOf_accepts_of_decode hi⟩,
    decode_of_no_row_accepts⟩
  obtain ⟨i, rfl⟩ := exists_rowOf_eq hr
  exact decode_of_rowOf_accepts i hacc

end Sys2Proof

namespace Sys2Proof.Machine

/-- Settles O8: a word no row accepts is a decode error, and the step event is then the fault entry of R168. -/
theorem unknownOpcodeFaults : Obligations.UnknownOpcodeFaults := by
  intro s w hnext hrun hfetch hnone
  refine ⟨s.raise .unknownOpcode w, ?_, s.raise_faultEntered .unknownOpcode w⟩
  rw [step_of_schedule_nil s hnext, cycle_of_decode_error s w _ hrun hfetch (decode_of_no_row_accepts hnone)]

end Sys2Proof.Machine
end

section
/-! SUPPORT. The instruction cycle: which event a step of the machine applies, which instruction a step event runs, when an
instruction faults, and where the default advance of PC is its last effect (spec/40_instruction_cycle.md R80 to R92). -/

namespace Sys2Proof.Machine

variable {s t : State} {i : Instr}

/-! ### Faults (R87, R168) -/

theorem exec_halted_of_not_written (hi : .errLatches ∉ writesPart i) (h : exec i s = .next t) :
    t.halted = s.halted := by
  obtain ⟨hhalted, _⟩ := (exec_keepsAllBut h).samePart hi
  exact hhalted

/-- Settles O12: a return or a call that completes keeps `halted`, and every other instruction keeps all the error latches. -/
theorem aFaultingInstructionWritesOnlyTheLatches : Obligations.AFaultingInstructionWritesOnlyTheLatches := by
  intro i s t h hs ht
  have hne : t.halted ≠ s.halted := by simp [hs, ht]
  cases i with
  | ret =>
    obtain ⟨_, _, rfl⟩ | ⟨hsp, rfl⟩ := execRet_cases h
    · exact absurd rfl hne
    · exact .inl ⟨rfl, hsp, s.raise_faultEntered .stackUnderflow _⟩
  | callAddr nnn =>
    obtain ⟨_, rfl⟩ | ⟨hsp, rfl⟩ := execCallAddr_cases h
    · exact absurd rfl hne
    · exact .inr ⟨nnn, rfl, hsp, s.raise_faultEntered .stackOverflow _⟩
  | _ => exact absurd (exec_halted_of_not_written (by simp [writesPart]) h) hne

/-! ### The default advance (R85, R86) -/

theorem exec_answers_of_setsPc_eq_false (s : State) (hi : setsPc i = false) : ∃ t, exec i s = .next t := by
  cases i with
  | ret | callAddr nnn => cases hi
  | _ => exact ⟨_, rfl⟩

/-- Settles O58: such an instruction answers a next state, and `exec_pc_of_setsPc_eq_false` says where PC stands in it. -/
theorem everyOtherInstructionAdvancesPc : Obligations.EveryOtherInstructionAdvancesPc := by
  intro i s hi
  obtain ⟨t, h⟩ := exec_answers_of_setsPc_eq_false s hi
  exact ⟨t, h, exec_pc_of_setsPc_eq_false hi h⟩

/-! ### The idle loop (R92) -/

theorem State.setPc_pc_self (s : State) : s.setPc s.pc = s := rfl

theorem cycle_of_atIdleLoop (h : AtIdleLoop s) : cycle s = .next s := by
  obtain ⟨hrun, nnn, hpc, hfetch⟩ := h
  calc cycle s = exec (.jpAddr nnn) s := cycle_of_decode_ok s _ _ hrun hfetch (decode_encode (.jpAddr nnn) rfl)
    _ = .next (s.setPc (addrWord nnn)) := rfl
    _ = .next s := by rw [← hpc, s.setPc_pc_self]

/-- Settles O59: the step event jumps to where PC already stands. -/
theorem idleLoopStays : Obligations.IdleLoopStays :=
  fun s hidle hnext => (step_of_schedule_nil s hnext).trans (cycle_of_atIdleLoop hidle)

/-! ### The instruction a step event runs (R82, R83) -/

theorem cycle_of_bytes_at_pc (hrun : Running s) (hpc : s.pc.toNat ≤ 0xFFE)
    (hd : decode (joinBytes (s.readByte s.pc.toNat) (s.readByte (s.pc.toNat + 1))) = .ok i) : cycle s = exec i s :=
  cycle_of_decode_ok s _ i hrun (fetch_of_pc_le hpc) hd

/-- Settles O5: the step event comes with none scheduled or from the head of the schedule, and the rest of the schedule is
nothing that fetch or decode reads. -/
theorem stepRunsTheDecodedInstruction : Obligations.StepRunsTheDecodedInstruction := by
  refine fun s i hrun hpc hd => ⟨fun hnil => ?_, fun rest hcons => ?_⟩
  · exact (step_of_schedule_nil s hnil).trans (cycle_of_bytes_at_pc hrun hpc hd)
  · exact (step_of_schedule_cons s .step rest hcons).trans
      (cycle_of_bytes_at_pc (s := { s with schedule := rest }) hrun hpc hd)

/-! ### The event a step applies (R80, R81, R88) -/

/-- Settles O6: with the head of the schedule known, the step is `applyEvent` of it. -/
theorem scheduledEventIsApplied : Obligations.ScheduledEventIsApplied :=
  fun s rest => ⟨step_of_schedule_cons s .reset rest, fun rom => step_of_schedule_cons s (.load rom) rest,
    step_of_schedule_cons s .tick rest, fun k => step_of_schedule_cons s (.setKeys k) rest,
    step_of_schedule_cons s .step rest, step_of_schedule_nil s⟩

theorem not_running_of_halted_or_waiting (h : s.halted = true ∨ s.waiting = true) : ¬Running s := by
  rintro ⟨hh, hw⟩
  simp [hh, hw] at h

/-- Settles O11: a halted or waiting core is not running, and its step event is the identity. -/
theorem haltedOrWaitingStepChangesNothing : Obligations.HaltedOrWaitingStepChangesNothing :=
  fun s hnext h => (step_of_schedule_nil s hnext).trans (cycle_of_not_running s (not_running_of_halted_or_waiting h))

end Sys2Proof.Machine
end

section
/-! SUPPORT. The control transfers: the skips and jumps, which only set PC, and the call and the return with their two
stack faults (spec/41_control_flow.md R100 to R108, R163, R164). -/

namespace Sys2Proof.Machine

variable {s : State}

/-! ### Jumps and skips (R101, R103 to R108) -/

/-- Settles O28: the jump leaves its target in PC, and the fetch is bounded. -/
theorem jumpSetsPc : Obligations.JumpSetsPc := by
  intro s nnn
  have hpc : (s.setPc (addrWord nnn)).pc.toNat = nnn.toNat := toNat_addrWord nnn
  exact ⟨_, rfl, hpc, keepsAllBut_with_pc s _, fun htop => fetch_of_lt_pc (hpc.symm ▸ htop)⟩

/-- R103: the 16-bit sum of an address and a byte does not wrap. -/
theorem toNat_addrWord_add_byteWord (a : Addr) (b : Byte) :
    (addrWord a + byteWord b).toNat = a.toNat + b.toNat := by
  have ha := a.isLt
  have hb := b.isLt
  rw [BitVec.toNat_add_of_lt (by rw [toNat_addrWord, toNat_byteWord]; omega), toNat_addrWord, toNat_byteWord]

/-- Settles O29: the jump leaves the sum in PC, and the sum is exact. -/
theorem indexedJumpAddsV0 : Obligations.IndexedJumpAddsV0 :=
  fun s nnn => ⟨_, rfl, toNat_addrWord_add_byteWord nnn (s.reg 0), keepsAllBut_with_pc s _⟩

/-- R108: what an instruction does whose meaning is a skip on a test of `p`. -/
theorem exec_skips_of_eq_skipIf {i : Instr} {c : Bool} {p : Prop} [Decidable p] (h : exec i s = .next (s.skipIf c))
    (hc : c = true ↔ p) :
    ∃ t, exec i s = .next t ∧ t.pc = (if p then s.pc + 4 else s.pc + 2) ∧ KeepsAllBut [] s t :=
  ⟨_, h, by rw [s.pc_skipIf, if_congr hc rfl rfl], keepsAllBut_with_pc s _⟩

/-- Settles O34: each of the four is a skip on the test its condition names. -/
theorem registerCompareSkips : Obligations.RegisterCompareSkips :=
  fun _ _ _ _ => ⟨exec_skips_of_eq_skipIf rfl beq_iff_eq, exec_skips_of_eq_skipIf rfl bne_iff_ne,
    exec_skips_of_eq_skipIf rfl beq_iff_eq, exec_skips_of_eq_skipIf rfl bne_iff_ne⟩

/-! ### Call and return within the stack (R100, R102) -/

theorem execCallAddr_of_lt (hk : s.sp.toNat < 16) (nnn : Addr) :
    execCallAddr nnn s =
      .next (State.setPc { s with stack := s.stack.set s.sp.toNat (s.pc + 2) hk, sp := s.sp + 1 } (addrWord nnn)) :=
  s.push_of_lt (s.pc + 2) (encode (.callAddr nnn)) (fun u => .next (u.setPc (addrWord nnn))) hk

theorem execRet_of_pos (hpos : 0 < s.sp.toNat) (hk : s.sp.toNat - 1 < 16) :
    execRet s = .next (State.setPc { s with sp := s.sp - 1 } (s.stack[s.sp.toNat - 1]'hk)) :=
  s.pop_of_pos (encode .ret) (fun a u => .next (u.setPc a)) hpos hk

theorem setPc_with_stack_keepsAllBut (s : State) (n : BitVec 8) (k : Vector Word 16) (a : Word) :
    KeepsAllBut [.stack] s (State.setPc { s with sp := n, stack := k } a) :=
  (keepsAllBut_with_stack s n k).trans (keepsAllBut_with_pc _ a)

/-- Settles O30: the call is the push below 16 entries, then the jump. -/
theorem callPushesTheReturnAddress : Obligations.CallPushesTheReturnAddress := by
  rintro s nnn ⟨k, hk⟩ rfl
  refine ⟨_, execCallAddr_of_lt hk nnn, ?_, fun j hj => ?_, toNat_add_one hk, toNat_addrWord nnn,
    setPc_with_stack_keepsAllBut s _ _ _⟩
  · exact Vector.getElem_set_self hk
  · exact Vector.getElem_set_ne hk j.isLt fun he => hj (Fin.ext he.symm)

/-- Settles O31: the return is the pop of 1 to 16 entries, then the jump to what was popped. -/
theorem returnPopsTheReturnAddress : Obligations.ReturnPopsTheReturnAddress := by
  intro s k hsp
  have hpred : s.sp.toNat - 1 = k.val := by omega
  have hpos : 0 < s.sp.toNat := by omega
  refine ⟨_, execRet_of_pos hpos (hpred ▸ k.isLt), ?_, (toNat_sub_one hpos).trans hpred, rfl,
    setPc_with_stack_keepsAllBut s _ s.stack _⟩
  simp [hpred]

/-- Settles O32: the entry the call wrote is the one the return pops, since SP is the call's. -/
theorem returnComesBackAfterTheCall : Obligations.ReturnComesBackAfterTheCall := by
  intro s t u nnn hlt hcall hsp hstack
  obtain ⟨t', ht', htop, -, htsp, -⟩ := callPushesTheReturnAddress s nnn ⟨s.sp.toNat, hlt⟩ rfl
  cases ht'.symm.trans hcall
  obtain ⟨w, hw, hpc, hwsp, -⟩ := returnPopsTheReturnAddress u ⟨s.sp.toNat, hlt⟩ (hsp ▸ htsp)
  exact ⟨w, hw, hpc.trans (hstack ▸ htop), BitVec.eq_of_toNat_eq hwsp⟩

/-! ### The two stack faults (R163, R164) -/

theorem execCallAddr_of_full (h : s.sp = 16) (nnn : Addr) :
    execCallAddr nnn s = .next (s.raise .stackOverflow (encode (.callAddr nnn))) :=
  s.push_of_full (s.pc + 2) (encode (.callAddr nnn)) (fun u => .next (u.setPc (addrWord nnn))) h

theorem execRet_of_zero (h : s.sp = 0) : execRet s = .next (s.raise .stackUnderflow (encode .ret)) :=
  s.pop_of_zero (encode .ret) (fun a u => .next (u.setPc a)) h

theorem step_of_decode_ok {w : Word} {i : Instr} (hnext : StepIsNext s) (hrun : Running s) (hfetch : fetch s = some w)
    (hdec : decode w = .ok i) : step s = exec i s :=
  (step_of_schedule_nil s hnext).trans (cycle_of_decode_ok s w i hrun hfetch hdec)

/-- Settles O9: the word the fault records is the encoding of the call, which is the word fetched. -/
theorem seventeenthCallFaults : Obligations.SeventeenthCallFaults := by
  intro s w nnn hnext hrun hfetch hdec hsp
  obtain ⟨-, rfl⟩ := encodeOfDecodeIsTheWord w (.callAddr nnn) hdec
  exact ⟨_, (step_of_decode_ok hnext hrun hfetch hdec).trans (execCallAddr_of_full hsp nnn),
    s.raise_faultEntered .stackOverflow _⟩

/-- Settles O10: 0x00EE decodes to the return, which raises on an empty stack. -/
theorem returnWithoutCallFaults : Obligations.ReturnWithoutCallFaults :=
  fun s hnext hrun hfetch hsp =>
    ⟨_, (step_of_decode_ok hnext hrun hfetch (decode_encode .ret rfl)).trans (execRet_of_zero hsp),
      s.raise_faultEntered .stackUnderflow _⟩

end Sys2Proof.Machine
end

section
/-! SUPPORT. The loads, the arithmetic, the logic and the shifts (spec/42_alu.md R110 to R121, R150): what each of the three
ways a meaning writes registers leaves in them, and the arithmetic of the results and flags. -/

namespace Sys2Proof.Machine

variable {s : State}

/-! ### One register written, no flag (R111 to R116, R150) -/

theorem setReg_advance_frame (s : State) (x : Reg) (b : Byte) :
    KeepsRegsBut [x] s (s.setReg x b).advance ∧ (s.setReg x b).advance.pc = s.pc + 2 ∧
      KeepsAllBut [.regs] s (s.setReg x b).advance :=
  ⟨fun r hr => s.reg_setReg_ne x r b (by simpa using hr), rfl,
    (keepsAllBut_with_v s _).trans (keepsAllBut_with_pc _ _)⟩

/-- What an instruction does whose meaning is one register written. -/
theorem exec_loads_of_eq_setReg {i : Instr} {x : Reg} {b : Byte} (h : exec i s = .next (s.setReg x b).advance) :
    ∃ t, exec i s = .next t ∧ t.reg x = b ∧ KeepsRegsBut [x] s t ∧ t.pc = s.pc + 2 ∧ KeepsAllBut [.regs] s t :=
  ⟨_, h, s.reg_setReg_self x b, setReg_advance_frame s x b⟩

/-- Settles O14: each of the three writes one register. -/
theorem registerLoads : Obligations.RegisterLoads :=
  fun _ _ _ _ => ⟨exec_loads_of_eq_setReg rfl, exec_loads_of_eq_setReg rfl, exec_loads_of_eq_setReg rfl⟩

/-- Settles O15: the one register written gets the sum of two bytes, which is modulo 256. -/
theorem addImmediateSetsNoFlag : Obligations.AddImmediateSetsNoFlag := by
  intro s x nn
  obtain ⟨t, h, hx, hframe⟩ := exec_loads_of_eq_setReg (i := .addByte x nn) (s := s) rfl
  exact ⟨t, h, hx ▸ BitVec.toNat_add _ _, hframe⟩

/-- R114 to R116: what an instruction does whose meaning writes a byte with the bits `f k` to one register. -/
theorem exec_bits_of_eq_setReg {i : Instr} {x : Reg} {b : Byte} {f : Nat → Bool}
    (h : exec i s = .next (s.setReg x b).advance) (hb : ∀ k, b.getLsbD k = f k) :
    ∃ t, exec i s = .next t ∧ (∀ k < 8, (t.reg x).getLsbD k = f k) ∧
      KeepsRegsBut [x] s t ∧ t.pc = s.pc + 2 ∧ KeepsAllBut [.regs] s t := by
  obtain ⟨t, ht, rfl, hframe⟩ := exec_loads_of_eq_setReg h
  exact ⟨t, ht, fun k _ => hb k, hframe⟩

/-- Settles O16: the library says what the bits of the three operations are. -/
theorem logicalOperationsSetNoFlag : Obligations.LogicalOperationsSetNoFlag :=
  fun _ _ _ => ⟨exec_bits_of_eq_setReg rfl fun _ => BitVec.getLsbD_or,
    exec_bits_of_eq_setReg rfl fun _ => BitVec.getLsbD_and,
    exec_bits_of_eq_setReg rfl fun _ => BitVec.getLsbD_xor⟩

/-! ### The destination, then the flag (R117, R118, R120) -/

theorem flagByte_decide (p : Prop) [Decidable p] : flagByte (decide p) = if p then 1 else 0 := by
  simp [flagByte]

/-- R118: a difference of bytes, with the 256 a borrow adds. -/
theorem toNat_sub_byte (a b : Byte) :
    (a - b).toNat = if b.toNat ≤ a.toNat then a.toNat - b.toNat else a.toNat + 256 - b.toNat := by
  have ha := a.isLt
  have hb := b.isLt
  rw [BitVec.toNat_sub]
  split <;> omega

theorem writeThenFlag_advance_frame (s : State) (x : Reg) (b : Byte) (f : Bool) :
    KeepsRegsBut [x, vf] s (s.writeThenFlag x b f).advance ∧ (s.writeThenFlag x b f).advance.pc = s.pc + 2 ∧
      KeepsAllBut [.regs] s (s.writeThenFlag x b f).advance := by
  refine ⟨fun r hr => ?_, rfl, (keepsAllBut_with_v s _).trans (keepsAllBut_with_pc _ _)⟩
  obtain ⟨hx, hf⟩ : r ≠ x ∧ r ≠ vf := by simpa using hr
  exact s.reg_writeThenFlag_ne x r b f hx hf

/-- R110: what an instruction does whose meaning is a destination and then the flag of a test of `p`. -/
theorem exec_flags_of_eq_writeThenFlag {i : Instr} {x : Reg} {b : Byte} {p : Prop} [Decidable p]
    (h : exec i s = .next (s.writeThenFlag x b (decide p)).advance) :
    ∃ t, exec i s = .next t ∧ t.reg vf = (if p then 1 else 0) ∧ (x ≠ vf → t.reg x = b) ∧
      KeepsRegsBut [x, vf] s t ∧ t.pc = s.pc + 2 ∧ KeepsAllBut [.regs] s t := by
  refine ⟨_, h, ?_, fun hx => ?_, writeThenFlag_advance_frame s x b _⟩
  · rw [State.reg_advance, s.reg_writeThenFlag, if_pos rfl, flagByte_decide]
  · rw [State.reg_advance, s.reg_writeThenFlag, if_neg hx, if_pos rfl]

/-- Settles O17: the carry is the test of the exact sum. -/
theorem addSetsCarryAfterTheDestination : Obligations.AddSetsCarryAfterTheDestination := by
  intro s x y
  obtain ⟨t, h, hf, hx, hframe⟩ := exec_flags_of_eq_writeThenFlag (i := .addReg x y) (s := s) rfl
  exact ⟨t, h, hf, fun hne => hx hne ▸ BitVec.toNat_add _ _, hframe⟩

/-- R118, R120: what an instruction does whose meaning is a difference and its flag, whichever operand is the minuend. -/
theorem exec_subtracts_of_eq_writeThenFlag {i : Instr} {x : Reg} {a b : Byte}
    (h : exec i s = .next (s.writeThenFlag x (a - b) (noBorrowFlag a b)).advance) :
    ∃ t, exec i s = .next t ∧ t.reg vf = (if b.toNat ≤ a.toNat then 1 else 0) ∧
      (x ≠ vf → (t.reg x).toNat = if b.toNat ≤ a.toNat then a.toNat - b.toNat else a.toNat + 256 - b.toNat) ∧
      KeepsRegsBut [x, vf] s t ∧ t.pc = s.pc + 2 ∧ KeepsAllBut [.regs] s t := by
  obtain ⟨t, ht, hf, hx, hframe⟩ := exec_flags_of_eq_writeThenFlag h
  exact ⟨t, ht, hf, fun hne => hx hne ▸ toNat_sub_byte a b, hframe⟩

/-- Settles O18: `V[x]` is the minuend. -/
theorem subtractSetsNotBorrow : Obligations.SubtractSetsNotBorrow :=
  fun _ _ _ => exec_subtracts_of_eq_writeThenFlag rfl

/-- Settles O19: `V[y]` is the minuend. -/
theorem reversedSubtractSetsNotBorrow : Obligations.ReversedSubtractSetsNotBorrow :=
  fun _ _ _ => exec_subtracts_of_eq_writeThenFlag rfl

/-! ### The shifts, in the two orders (R119, R121) -/

theorem State.shiftReg_eq (s : State) (x y : Reg) : s.shiftReg x y = if s.params.shiftSrc = .vx then x else y := by
  unfold State.shiftReg
  cases s.params.shiftSrc <;> rfl

/-- R119, R121 under flag_last: the flag is written over the destination. -/
theorem State.reg_shiftWithFlag_of_flagLast (h : s.params.shiftVfOrder = .flagLast) (x src : Reg) (f g : Byte → Byte)
    (r : Reg) : (s.shiftWithFlag x src f g).reg r =
      if r = vf then g (s.reg src) else if r = x then f (s.reg src) else s.reg r := by
  simp [State.shiftWithFlag, h]

/-- R119, R121 under flag_first: the destination is written over the flag, and a source that is VF is read as the flag. -/
theorem State.reg_shiftWithFlag_of_flagFirst (h : s.params.shiftVfOrder = .flagFirst) (x src : Reg) (f g : Byte → Byte)
    (r : Reg) : (s.shiftWithFlag x src f g).reg r =
      if r = x then (if src = vf then f (g (s.reg src)) else f (s.reg src))
      else if r = vf then g (s.reg src) else s.reg r := by
  simp [State.shiftWithFlag, h, apply_ite f]

theorem shiftWithFlag_advance_frame (s : State) (x src : Reg) (f g : Byte → Byte) :
    KeepsRegsBut [x, vf] s (s.shiftWithFlag x src f g).advance ∧ (s.shiftWithFlag x src f g).advance.pc = s.pc + 2 ∧
      KeepsAllBut [.regs] s (s.shiftWithFlag x src f g).advance := by
  refine ⟨fun r hr => ?_, by simp, (s.shiftWithFlag_keepsAllBut x src f g).trans (keepsAllBut_with_pc _ _)⟩
  obtain ⟨hx, hf⟩ : r ≠ x ∧ r ≠ vf := by simpa using hr
  exact s.reg_shiftWithFlag_ne x src r f g hx hf

/-- R119, R121: what an instruction does whose meaning is a shift with its flag, when `out` is the flag, `shifted` the
source shifted and `flagShifted` the flag shifted. -/
theorem exec_shifts_of_eq_shiftWithFlag {i : Instr} {x src : Reg} {f g : Byte → Byte} {out shifted flagShifted : Nat}
    (h : exec i s = .next (s.shiftWithFlag x src f g).advance) (hout : (g (s.reg src)).toNat = out)
    (hshifted : (f (s.reg src)).toNat = shifted) (hflag : (f (g (s.reg src))).toNat = flagShifted) :
    ∃ t, exec i s = .next t ∧
      (s.params.shiftVfOrder = .flagLast → (t.reg vf).toNat = out ∧ (x ≠ vf → (t.reg x).toNat = shifted)) ∧
      (s.params.shiftVfOrder = .flagFirst →
        (x = vf → (t.reg vf).toNat = if src = vf then flagShifted else shifted) ∧
        (x ≠ vf → (t.reg vf).toNat = out ∧ (t.reg x).toNat = if src = vf then flagShifted else shifted)) ∧
      KeepsRegsBut [x, vf] s t ∧ t.pc = s.pc + 2 ∧ KeepsAllBut [.regs] s t := by
  subst hout hshifted hflag
  refine ⟨_, h, fun hlast => ?_, fun hfirst => ?_, shiftWithFlag_advance_frame s x src f g⟩
  · have hreg := State.reg_shiftWithFlag_of_flagLast hlast x src f g
    exact ⟨by simp [hreg], fun hx => by simp [hreg, hx]⟩
  · have hreg := State.reg_shiftWithFlag_of_flagFirst hfirst x src f g
    exact ⟨fun hx => by subst hx; simp [hreg, apply_ite BitVec.toNat],
      fun hx => by simp [hreg, hx.symm, apply_ite BitVec.toNat]⟩

theorem toNat_shiftRight_one (a : Byte) : (a >>> 1).toNat = a.toNat / 2 := by
  rw [BitVec.toNat_ushiftRight, Nat.shiftRight_eq_div_pow, pow_one]

theorem toNat_shiftLeft_one (a : Byte) : (a <<< 1).toNat = 2 * a.toNat % 256 := by
  rw [BitVec.toNat_shiftLeft, Nat.shiftLeft_eq, pow_one, Nat.mul_comm]

theorem toNat_lowBit_shiftRight_one (a : Byte) : (lowBit a >>> 1).toNat = 0 := by
  rw [toNat_shiftRight_one, toNat_lowBit]
  omega

theorem toNat_highBit_shiftLeft_one (a : Byte) : (highBit a <<< 1).toNat = 2 * (a.toNat / 128) := by
  have ha := a.isLt
  rw [toNat_shiftLeft_one, toNat_highBit]
  omega

/-- Settles O20: halving, the low bit, and the low bit halved, which is 0. -/
theorem shiftRightInEverySetting : Obligations.ShiftRightInEverySetting := by
  intro s x y
  rw [← s.shiftReg_eq x y]
  exact exec_shifts_of_eq_shiftWithFlag rfl (toNat_lowBit _) (toNat_shiftRight_one _) (toNat_lowBit_shiftRight_one _)

/-- Settles O21: doubling modulo 256, the high bit, and the high bit doubled, which is below 256. -/
theorem shiftLeftInEverySetting : Obligations.ShiftLeftInEverySetting := by
  intro s x y
  rw [← s.shiftReg_eq x y]
  exact exec_shifts_of_eq_shiftWithFlag rfl (toNat_highBit _) (toNat_shiftLeft_one _) (toNat_highBit_shiftLeft_one _)

end Sys2Proof.Machine
end

section
/-! SUPPORT. The index register and the instructions that reach memory through it (spec/43_index_memory.md R130 to R135):
what they leave in `I`, in the bytes from `I` on and in `V0` to `V[x]`. -/

namespace Sys2Proof.Machine

variable {s : State}

/-! ### I written alone (R130 to R132) -/

/-- What an instruction does whose meaning is a write to `I`. -/
theorem exec_indexes_of_eq_setIdx {i : Instr} {a : Word} {n : Nat} (h : exec i s = .next (s.setIdx a).advance)
    (ha : a.toNat = n) :
    ∃ t, exec i s = .next t ∧ t.idx.toNat = n ∧ t.pc = s.pc + 2 ∧ KeepsAllBut [.index] s t :=
  ⟨_, h, ha, rfl, (keepsAllBut_with_idx s a).trans (keepsAllBut_with_pc _ _)⟩

theorem toNat_add_byteWord (a : Word) (b : Byte) : (a + byteWord b).toNat = (a.toNat + b.toNat) % 65536 := by
  rw [BitVec.toNat_add, toNat_byteWord]

theorem toNat_lowNibble (b : Byte) : (lowNibble b).toNat = b.toNat % 16 := by
  rw [lowNibble, BitVec.extractLsb'_toNat, Nat.shiftRight_zero]

/-- R132: the address of a glyph does not wrap. -/
theorem toNat_glyphAddr (d : BitVec 4) : (glyphAddr d).toNat = 0x050 + 5 * d.toNat := by
  have hd := d.isLt
  simp only [glyphAddr, BitVec.toNat_add, BitVec.toNat_mul, BitVec.toNat_setWidth, BitVec.ofNat_eq_ofNat,
    BitVec.toNat_ofNat]
  omega

/-- Settles O22: each of the three writes `I`, with an address, a sum modulo 65536 and the address of a glyph. -/
theorem indexRegisterWrites : Obligations.IndexRegisterWrites :=
  fun s x nnn => ⟨exec_indexes_of_eq_setIdx rfl (toNat_addrWord nnn),
    exec_indexes_of_eq_setIdx rfl (toNat_add_byteWord s.idx (s.reg x)),
    exec_indexes_of_eq_setIdx rfl ((toNat_glyphAddr _).trans (by rw [toNat_lowNibble]))⟩

/-! ### BCD store (R133) -/

theorem State.readByte_storeBytes_zero_outside (s : State) {base : Word} {bs : List Byte} {a : Nat}
    (h : ∀ j < bs.length, a ≠ dataAddr base j) : (s.storeBytes base 0 bs).readByte a = s.readByte a :=
  s.readByte_storeBytes_outside base 0 bs a fun j hj => (Nat.zero_add j).symm ▸ h j hj

/-- R133: a decimal digit of a byte fits a byte. -/
theorem toNat_bcdDigits (b : Byte) :
    (bcdDigits b).map BitVec.toNat = [b.toNat / 100, b.toNat / 10 % 10, b.toNat % 10] := by
  have hb := b.isLt
  simp only [bcdDigits, List.map_cons, List.map_nil, BitVec.toNat_ofNat, List.cons.injEq, and_true]
  omega

/-- R133: the digit at offset `j` after the store of a byte's digits from `base` on. -/
theorem State.toNat_readByte_storeBytes_bcdDigits (s : State) (base : Word) (b : Byte) (j : Nat) (hj : j < 3) :
    ((s.storeBytes base 0 (bcdDigits b)).readByte (dataAddr base j)).toNat =
      [b.toNat / 100, b.toNat / 10 % 10, b.toNat % 10][j] := by
  have hlen : (bcdDigits b).length = 3 := rfl
  have hread := s.readByte_storeBytes base 0 (bcdDigits b) j (by omega) (by omega)
  rw [Nat.zero_add] at hread
  simp only [hread, ← toNat_bcdDigits, List.getElem_map]

/-- Settles O23: the three digits are stored one after the other from `I` on, and nothing else is. -/
theorem bcdStoreWritesThreeDigits : Obligations.BcdStoreWritesThreeDigits := by
  intro s x
  have hdigit := s.toNat_readByte_storeBytes_bcdDigits s.idx (s.reg x)
  exact ⟨_, rfl, hdigit 0 (by decide), hdigit 1 (by decide), hdigit 2 (by decide),
    fun _ => s.readByte_storeBytes_zero_outside (bs := bcdDigits (s.reg x)),
    exec_pc_of_setsPc_eq_false (i := .ldB x) rfl rfl, exec_keepsAllBut (i := .ldB x) rfl⟩

/-! ### Register store and load (R134, R135) -/

/-- What each setting of LDST_I_MODE leaves in `I`. -/
theorem State.indexAfter_by_mode (s : State) (x : Reg) :
    (s.params.ldstIMode = .unchanged → s.indexAfter x = s.idx) ∧
    (s.params.ldstIMode = .incXPlus1 → (s.indexAfter x).toNat = (s.idx.toNat + x.toNat + 1) % 65536) ∧
    (s.params.ldstIMode = .incX → (s.indexAfter x).toNat = (s.idx.toNat + x.toNat) % 65536) := by
  refine ⟨fun h => ?_, fun h => ?_, fun h => ?_⟩
  · rw [State.indexAfter, h]
  · simp [State.indexAfter, h, BitVec.toNat_add]
  · simp [State.indexAfter, h, BitVec.toNat_add]

/-- Settles O24: the registers are stored one after the other from `I` on, and the bytes beyond the `x + 1` stored are not
written. -/
theorem storeRegistersWritesAscending : Obligations.StoreRegistersWritesAscending := by
  intro s x
  obtain ⟨hunchanged, hplus, hinc⟩ := s.indexAfter_by_mode x
  refine ⟨_, rfl, fun k hk => readByte_of_exec_ldMemVx rfl hk, fun a ha => ?_, hunchanged, hplus, hinc,
    exec_pc_of_setsPc_eq_false (i := .ldMemVx x) rfl rfl, exec_keepsAllBut (i := .ldMemVx x) rfl⟩
  refine s.readByte_storeBytes_zero_outside fun j hj => ha j ?_
  rw [s.length_firstRegs] at hj
  exact Nat.le_of_lt_succ hj

/-- Settles O25: the load of the first `x + 1` registers leaves each with the byte at its own offset, and the others alone. -/
theorem loadRegistersReadsAscending : Obligations.LoadRegistersReadsAscending := by
  intro s x
  obtain ⟨hunchanged, hplus, hinc⟩ := s.indexAfter_by_mode x
  have hload := s.reg_loadRegs s.idx (x.toNat + 1) x.isLt
  refine ⟨_, rfl, fun k hk => ?_, fun k hk => ?_, hunchanged, hplus, hinc,
    exec_pc_of_setsPc_eq_false (i := .ldVxMem x) rfl rfl, exec_keepsAllBut (i := .ldVxMem x) rfl⟩
  · exact (hload k).trans (if_pos (Nat.lt_succ_of_le hk))
  · exact (hload k).trans (if_neg (Nat.not_lt.mpr hk))

/-- Settles O26: register `k` is loaded from the address its store wrote. -/
theorem storedRegistersLoadBack : Obligations.StoredRegistersLoadBack := by
  intro s t u x hstore hmem hidx
  obtain ⟨w, hw, hload, -⟩ := loadRegistersReadsAscending u x
  refine ⟨w, hw, fun k hk => ?_⟩
  rw [hload k hk, hmem, hidx, readByte_of_exec_ldMemVx hstore hk]

end Sys2Proof.Machine
end

section
/-! SUPPORT. The loops of a sprite draw against its picture (spec/44_display.md R140 to R142): what one bit, one row and
all rows of a sprite turn over, and which collisions they note. -/

namespace Sys2Proof.Machine

/-! ### Turning over a set of pixels -/

/-- The display `after` is `before` with the pixels of a mask turned over, and the collision flag has noted whether one
of them was on. -/
structure TurnsOver (mask : Fin 64 → Fin 32 → Bool) (before after : Display × Bool) : Prop where
  pixel : ∀ px py, Display.pixel after.1 px py = (Display.pixel before.1 px py ^^ mask px py)
  hit : after.2 = true ↔ before.2 = true ∨ ∃ px py, Display.pixel before.1 px py = true ∧ mask px py = true

theorem turnsOver_nothing (dh : Display × Bool) : TurnsOver (fun _ _ => false) dh dh where
  pixel := by simp
  hit := by simp

/-- Two turns with no pixel in common are one: the second finds its pixels as they were before the first. -/
theorem TurnsOver.trans {m m' : Fin 64 → Fin 32 → Bool} {a b c : Display × Bool} (h : TurnsOver m a b)
    (h' : TurnsOver m' b c) (hdisj : ∀ px py, m' px py = true → m px py = false) :
    TurnsOver (fun px py => m px py || m' px py) a c where
  pixel px py := by
    rw [h'.pixel, h.pixel]
    cases hm' : m' px py with
    | false => simp
    | true => simp [hdisj px py hm']
  hit := by
    have hsame : ∀ px py, (Display.pixel b.1 px py = true ∧ m' px py = true) ↔
        (Display.pixel a.1 px py = true ∧ m' px py = true) :=
      fun px py => and_congr_left fun hm' => by rw [h.pixel, hdisj px py hm', Bool.xor_false]
    simp only [h'.hit, h.hit, hsame, Bool.or_eq_true, and_or_left, exists_or, or_assoc]

theorem drawBit_turnsOver (qx : Fin 64) (qy : Fin 32) (on : Bool) (dh : Display × Bool) :
    TurnsOver (fun px py => on && decide (px = qx ∧ py = qy)) dh (drawBit qx qy on dh) where
  pixel := pixel_drawBit qx qy on dh
  hit := by
    rw [hit_drawBit]
    cases on <;> simp

/-! ### The loops -/

/-- Where a pixel lies from the sprite's corner `o`, going round: at `c` exactly when it is `c` after the corner. -/
theorem eq_ofNat_add_iff {N o c : Nat} [NeZero N] (ho : o < N) (hc : c < N) (p : Fin N) :
    p = Fin.ofNat N (o + c) ↔ (p.val + N - o) % N = c := by
  have hp := p.isLt
  rw [Fin.ext_iff, Fin.val_ofNat]
  have hsum : (o + c) % N = if o + c < N then o + c else o + c - N := by
    split
    · exact Nat.mod_eq_of_lt ‹_›
    · rw [Nat.mod_eq_sub_mod (by omega), Nat.mod_eq_of_lt (by omega)]
  have hoff : (p.val + N - o) % N = if o ≤ p.val then p.val - o else p.val + N - o := by
    split
    · rw [Nat.mod_eq_sub_mod (by omega), Nat.mod_eq_of_lt (by omega)]
      omega
    · exact Nat.mod_eq_of_lt (by omega)
  rw [hsum, hoff]
  split <;> split <;> omega

/-- The part of `spriteBit` that the first `c` columns of row `qy` cover. -/
def rowBit (b : Byte) (x0 : Nat) (qy : Fin 32) (c : Nat) (px : Fin 64) (py : Fin 32) : Bool :=
  decide ((px.val + 64 - x0) % 64 < c) && decide (py = qy) && b.getLsbD (7 - (px.val + 64 - x0) % 64)

theorem rowBit_succ (b : Byte) {x0 c : Nat} (hx : x0 < 64) (hc : c < 64) (qy : Fin 32) (px : Fin 64) (py : Fin 32) :
    rowBit b x0 qy (c + 1) px py = (rowBit b x0 qy c px py ||
      (b.getLsbD (7 - c) && decide (px = Fin.ofNat 64 (x0 + c) ∧ py = qy))) := by
  simp only [rowBit, eq_ofNat_add_iff hx hc px]
  by_cases h : (px.val + 64 - x0) % 64 = c
  · simp [h, Bool.and_comm]
  · simp [h, Nat.le_iff_lt_or_eq.trans (or_iff_left h)]

/-- R141: the columns of a row, one bit after the other. -/
theorem drawCols_turnsOver (b : Byte) {x0 c : Nat} (hx : x0 < 64) (hc : c ≤ 64) (qy : Fin 32) (dh : Display × Bool) :
    TurnsOver (rowBit b x0 qy c) dh (drawCols b x0 qy c dh) := by
  induction c with
  | zero =>
    have hnone : rowBit b x0 qy 0 = fun _ _ => false := by funext px py; simp [rowBit]
    exact hnone ▸ turnsOver_nothing dh
  | succ c ih =>
    rw [funext₂ (rowBit_succ b hx hc qy), drawCols]
    refine (ih (Nat.le_of_succ_le hc)).trans (drawBit_turnsOver _ qy _ _) fun px py hbit => ?_
    simp only [Bool.and_eq_true, decide_eq_true_eq] at hbit
    obtain ⟨-, hcol, -⟩ := hbit
    simp [rowBit, (eq_ofNat_add_iff hx hc px).mp hcol]

theorem spriteBit_succ (s : State) (x y : Reg) {r : Nat} (hr : r < 32) (px : Fin 64) (py : Fin 32) :
    spriteBit s x y (r + 1) px py = (spriteBit s x y r px py ||
      rowBit (s.readByte (dataAddr s.idx r)) ((s.reg x).toNat % 64)
        (Fin.ofNat 32 ((s.reg y).toNat % 32 + r)) 8 px py) := by
  simp only [spriteBit, rowBit, eq_ofNat_add_iff (Nat.mod_lt _ (by decide)) hr py]
  by_cases h : (py.val + 32 - (s.reg y).toNat % 32) % 32 = r
  · simp [h, Nat.lt_succ_iff]
  · simp [h, Nat.le_iff_lt_or_eq.trans (or_iff_left h)]

/-- R141, R142: the first `r` rows turn over what falls on them. -/
theorem State.drawRows_turnsOver (s : State) (x y : Reg) {r : Nat} (hr : r ≤ 32) (dh : Display × Bool) :
    TurnsOver (spriteBit s x y r) dh (s.drawRows ((s.reg x).toNat % 64) ((s.reg y).toNat % 32) r dh) := by
  induction r with
  | zero =>
    have hnone : spriteBit s x y 0 = fun _ _ => false := by funext px py; simp [spriteBit]
    exact hnone ▸ turnsOver_nothing dh
  | succ r ih =>
    rw [funext₂ (spriteBit_succ s x y hr), State.drawRows]
    refine (ih (Nat.le_of_succ_le hr)).trans
      (drawCols_turnsOver _ (Nat.mod_lt _ (by decide)) (by decide) _ _) fun px py hbit => ?_
    simp only [rowBit, Bool.and_eq_true, decide_eq_true_eq] at hbit
    obtain ⟨⟨-, hrow⟩, -⟩ := hbit
    simp [spriteBit, (eq_ofNat_add_iff (Nat.mod_lt _ (by decide)) hr py).mp hrow]

/-! ### The two instructions -/

theorem flagByte_eq_one_iff (b : Bool) : flagByte b = 1 ↔ b = true := by cases b <;> decide

theorem flagByte_eq_zero_or_one (b : Bool) : flagByte b = 0 ∨ flagByte b = 1 := by cases b <;> decide

/-- R141: a draw leaves the display and the flag of its loops, VF written last. -/
theorem fb_and_vf_of_exec_drw {s t : State} {x y : Reg} {n : Nat} (h : exec (.drw x y n) s = .next t) :
    t.fb = (s.drawSprite x y n).1 ∧ t.reg vf = flagByte (s.drawSprite x y n).2 := by
  cases h
  exact ⟨rfl, State.reg_setReg_self _ vf _⟩

/-- Settles O36: the display is the cleared one, and the rest is the frame of the instruction. -/
theorem clearScreenTurnsEveryPixelOff : Obligations.ClearScreenTurnsEveryPixelOff :=
  fun _ => ⟨_, rfl, Display.pixel_clear, rfl, exec_keepsAllBut (i := .cls) rfl⟩

/-- Settles O37: the loops turn over the sprite's bits, each pixel once, so the flag notes the pixels that were on
before the draw. -/
theorem drawIsTheExclusiveOrWithTheSprite : Obligations.DrawIsTheExclusiveOrWithTheSprite := by
  intro s x y n hn
  have hdraw : TurnsOver (spriteBit s x y n) (s.fb, false) (s.drawSprite x y n) :=
    s.drawRows_turnsOver x y (by omega) (s.fb, false)
  obtain ⟨t, ht⟩ : ∃ t, exec (.drw x y n) s = .next t := ⟨_, rfl⟩
  obtain ⟨hfb, hvf⟩ := fb_and_vf_of_exec_drw ht
  refine ⟨t, ht, hfb ▸ hdraw.pixel, hvf ▸ flagByte_eq_zero_or_one _, ?_,
    fun r hr => exec_reg_of_not_written ht (by simpa [writesReg] using hr), exec_pc_of_setsPc_eq_false rfl ht,
    exec_keepsAllBut ht⟩
  rw [hvf, flagByte_eq_one_iff, hdraw.hit]
  simp

/-- R142: the picture depends on the two place registers, I and memory alone. -/
theorem spriteBit_congr {s t : State} {x y : Reg} (hx : t.reg x = s.reg x) (hy : t.reg y = s.reg y)
    (hidx : t.idx = s.idx) (hmem : ∀ a, t.readByte a = s.readByte a) (n : Nat) :
    spriteBit t x y n = spriteBit s x y n := by
  funext px py
  simp only [spriteBit, hx, hy, hidx, hmem]

/-- Settles O38: the second draw has the picture of the first, and turning the same pixels over twice restores them; it
collides with a pixel of the picture that the first draw left on, one that was off. -/
theorem drawingTwiceRestoresTheDisplay : Obligations.DrawingTwiceRestoresTheDisplay := by
  intro s t x y n hn hx hy hst
  obtain ⟨t', ht', hpix, -, -, hregs, -, hkeep⟩ := drawIsTheExclusiveOrWithTheSprite s x y n hn
  cases ht'.symm.trans hst
  obtain ⟨u, hu, hpix', -, hhit', -⟩ := drawIsTheExclusiveOrWithTheSprite t x y n hn
  have hsprite : spriteBit t x y n = spriteBit s x y n :=
    spriteBit_congr (hregs x (by simpa using hx)) (hregs y (by simpa using hy))
      (hkeep.samePart (p := .index) (by simp)) (hkeep.samePart (p := .memory) (by simp)) n
  rw [hsprite] at hpix' hhit'
  refine ⟨u, hu, Display.ext_pixel _ _ fun px py => ?_, hhit'.trans (exists₂_congr fun px py => ?_)⟩
  · rw [hpix', hpix, Bool.xor_assoc, Bool.xor_self, Bool.xor_false]
  · rw [hpix]
    cases Display.pixel s.fb px py <;> simp

end Sys2Proof.Machine
end

section
/-! SUPPORT. The timers, the key test, the key wait with its completion, and the random byte (spec/45_timers_keys_random.md
R151 to R156, spec/60_exceptions.md R177, R178). -/

namespace Sys2Proof.Machine

variable {s : State} {k p : Word}

/-! ### The timers (R151, R152) -/

/-- Settles O40: each of the two writes one timer, and the buzzer reads the one FX18 writes. -/
theorem timerWrites : Obligations.TimerWrites :=
  fun _ x => ⟨⟨_, rfl, rfl, rfl, exec_keepsAllBut (i := .ldDtVx x) rfl⟩,
    ⟨_, rfl, rfl, State.buzzer_iff _, rfl, exec_keepsAllBut (i := .ldStVx x) rfl⟩⟩

/-! ### The key test (R153, R154) -/

theorem State.keyDown_lowNibble (s : State) (b : Byte) :
    s.keyDown (lowNibble b) = s.keys.getLsbD (b.toNat % 16) := by
  rw [State.keyDown, toNat_lowNibble]

/-- Settles O35: each of the two is a skip on the latch of the key, the second on its complement. -/
theorem keyTestSkips : Obligations.KeyTestSkips := by
  intro s x
  have hkey := s.keyDown_lowNibble (s.reg x)
  exact ⟨exec_skips_of_eq_skipIf rfl (by rw [hkey]), exec_skips_of_eq_skipIf rfl (by rw [hkey, Bool.not_eq_true'])⟩

/-! ### The key wait (R155) -/

/-- Settles O41: the execution writes the two latches alone. -/
theorem keyWaitBegins : Obligations.KeyWaitBegins :=
  fun _ x => ⟨_, rfl, rfl, rfl, rfl, exec_keepsAllBut (i := .ldVxK x) rfl⟩

/-! ### The keys newly pressed, and the least of them (R178) -/

theorem getLsbD_and_not_iff (k l : Word) (j : Nat) :
    (k &&& ~~~l).getLsbD j = true ↔ k.getLsbD j = true ∧ l.getLsbD j = false := by
  have hj : k.getLsbD j = true → j < 16 := BitVec.lt_of_getLsbD
  simp only [BitVec.getLsbD_and, BitVec.getLsbD_not, Bool.and_eq_true, Bool.not_eq_true', decide_eq_true_eq]
  exact ⟨fun ⟨hk, _, hl⟩ => ⟨hk, hl⟩, fun ⟨hk, hl⟩ => ⟨hk, hj hk, hl⟩⟩

theorem and_not_ne_zero_iff (k l : Word) :
    k &&& ~~~l ≠ 0 ↔ ∃ j < 16, k.getLsbD j = true ∧ l.getLsbD j = false := by
  rw [Ne, BitVec.eq_of_getLsbD_eq_iff]
  simp [← getLsbD_and_not_iff]

/-- The search from key `a` on answers the least key of `p`, when it is among the keys looked at. -/
theorem leastKeyFrom_eq {a fuel i : Nat} (hp : p.getLsbD i = true) (hlow : ∀ j < i, ¬p.getLsbD j = true) (ha : a ≤ i)
    (hi : i ≤ a + fuel) : leastKeyFrom p a fuel = i := by
  induction fuel generalizing a with
  | zero => exact Nat.le_antisymm ha hi
  | succ fuel ih =>
    rw [leastKeyFrom]
    obtain rfl | hlt := Nat.eq_or_lt_of_le ha
    · exact if_pos hp
    · rw [if_neg (hlow a hlt)]
      exact ih hlt (by omega)

theorem leastKey_eq {i : Nat} (hi : i < 16) (hp : p.getLsbD i = true) (hlow : ∀ j < i, ¬p.getLsbD j = true) :
    leastKey p = i :=
  leastKeyFrom_eq hp hlow (Nat.zero_le i) (by omega)

/-! ### The set_keys event (R177) -/

theorem keepsAllBut_with_keys (s : State) (l : Word) : KeepsAllBut [.keys] s { s with keys := l } :=
  ⟨rfl, rfl, fun p hp => by cases p <;> simp_all [SamePart, State.reg, State.readByte]⟩

/-- R178: the completion of the wait, then the latch replaced. -/
theorem State.setKeys_of_press (hw : s.waiting = true) (hp : k &&& ~~~s.keys ≠ 0) :
    s.setKeys k = { (s.setReg s.waitX (BitVec.ofNat 8 (leastKey (k &&& ~~~s.keys)))).advance with
      waiting := false, keys := k } := by
  rw [State.setKeys, State.completeWait, if_pos (Bool.and_eq_true_iff.mpr ⟨hw, bne_iff_ne.mpr hp⟩)]

theorem State.setKeys_of_no_press (h : s.waiting = false ∨ k &&& ~~~s.keys = 0) :
    s.setKeys k = { s with keys := k } := by
  obtain hw | hp := h
  · simp [State.setKeys, State.completeWait, hw]
  · simp [State.setKeys, State.completeWait, hp]

/-- R178: what the completion of the wait writes, and its frame. -/
theorem State.setKeys_completes_wait (hw : s.waiting = true) (hp : k &&& ~~~s.keys ≠ 0) :
    (s.setKeys k).reg s.waitX = BitVec.ofNat 8 (leastKey (k &&& ~~~s.keys)) ∧ (s.setKeys k).pc = s.pc + 2 ∧
      (s.setKeys k).waiting = false ∧ (s.setKeys k).waitX = s.waitX ∧ (s.setKeys k).keys = k ∧
      KeepsRegsBut [s.waitX] s (s.setKeys k) ∧ KeepsAllBut [.regs, .waitLatches, .keys] s (s.setKeys k) := by
  rw [State.setKeys_of_press hw hp]
  obtain ⟨hregs, hpc, hkeep⟩ := setReg_advance_frame s s.waitX (BitVec.ofNat 8 (leastKey (k &&& ~~~s.keys)))
  exact ⟨s.reg_setReg_self s.waitX _, hpc, rfl, rfl, rfl, hregs,
    (hkeep.trans (keepsAllBut_with_waiting _ false s.waitX)).trans (keepsAllBut_with_keys _ k)⟩

/-- Settles O42: key `i` is the least with a bit in the word of the keys newly pressed. -/
theorem leastNewlyPressedKeyCompletesTheWait : Obligations.LeastNewlyPressedKeyCompletesTheWait := by
  intro s k i hw hdown hup hlow
  have hleast : leastKey (k &&& ~~~s.keys) = i :=
    leastKey_eq i.isLt ((getLsbD_and_not_iff k s.keys i).mpr ⟨hdown, hup⟩) fun j hj =>
      mt (getLsbD_and_not_iff k s.keys j).mp (hlow j hj)
  obtain ⟨hreg, hframe⟩ :=
    State.setKeys_completes_wait hw ((and_not_ne_zero_iff k s.keys).mpr ⟨i, i.isLt, hdown, hup⟩)
  refine ⟨?_, hframe⟩
  rw [hreg, hleast, BitVec.toNat_ofNat]
  exact Nat.mod_eq_of_lt (by omega)

/-- Settles O43: with no key newly pressed the word of such keys is 0, and then, as without a wait, only the latch is
replaced. -/
theorem keysWithoutAPressOnlyUpdateTheLatch : Obligations.KeysWithoutAPressOnlyUpdateTheLatch := by
  intro s k h
  have hno : s.waiting = false ∨ k &&& ~~~s.keys = 0 := by
    refine h.imp_right fun hnone => ?_
    by_contra hp
    obtain ⟨j, hj, hpress⟩ := (and_not_ne_zero_iff k s.keys).mp hp
    exact hnone j hj hpress
  rw [State.setKeys_of_no_press hno]
  exact ⟨rfl, rfl, keepsAllBut_with_keys s k⟩

/-! ### The random byte (R156) -/

/-- Settles O44: a bit of the byte written is the bit drawn and the bit of the mask, whatever was drawn. -/
theorem randomByteIsMasked : Obligations.RandomByteIsMasked := by
  intro s x nn
  obtain ⟨t, ht, hx, hdraws⟩ : ∃ t, exec (.rnd x nn) s = .next t ∧ t.reg x = Config.rnd s.draws &&& nn ∧
      t.draws = s.draws + 1 := ⟨_, rfl, s.reg_setReg_self x _, rfl⟩
  refine ⟨t, ht, hx, fun j hj => ?_, hdraws, fun r hr => exec_reg_of_not_written ht (by simpa [writesReg] using hr),
    exec_pc_of_setsPc_eq_false rfl ht, exec_keepsAllBut ht⟩
  rw [hx, BitVec.getLsbD_and, hj, Bool.and_false]

end Sys2Proof.Machine
end

section
/-! SUPPORT. The tick and load events and what a halted core still answers to (spec/60_exceptions.md R160 to R185,
spec/70_reset_and_hazards.md R194 to R196): the frame of each of the host's events but reset, with the error latches in
none of them. -/

namespace Sys2Proof.Machine

variable {s t : State} {rom : List Byte}

/-! ### The timers count down (R173, R174) -/

theorem toNat_countDown (b : Byte) : (countDown b).toNat = b.toNat - 1 := by
  unfold countDown
  split
  · next hzero => simp [hzero]
  · next hpos => exact toNat_sub_one (Nat.pos_of_ne_zero fun hb => hpos (BitVec.eq_of_toNat_eq hb))

theorem State.toNat_dt_tick (s : State) : s.tick.dt.toNat = s.dt.toNat - 1 := toNat_countDown s.dt

theorem State.toNat_st_tick (s : State) : s.tick.st.toNat = s.st.toNat - 1 := toNat_countDown s.st

theorem State.tick_keepsAllBut (s : State) : KeepsAllBut [.delayTimer, .soundTimer] s s.tick :=
  (keepsAllBut_with_dt s _).trans (keepsAllBut_with_st _ _)

/-- Settles O45: each timer is counted down, and the frame is that of the two timer writes. -/
theorem tickCountsBothTimersDown : Obligations.TickCountsBothTimersDown :=
  fun s => ⟨s.toNat_dt_tick, s.toNat_st_tick, rfl, s.tick_keepsAllBut⟩

/-- Settles O46, by induction on the number of ticks: the last of them takes one more off, if there is one to take. -/
theorem ticksNeverGoBelowZero : Obligations.TicksNeverGoBelowZero := by
  intro n s
  induction n with
  | zero => exact ⟨rfl, rfl⟩
  | succ n ih =>
    obtain ⟨hdt, hst⟩ := ih
    rw [Function.iterate_succ_apply', State.toNat_dt_tick, State.toNat_st_tick, hdt, hst]
    exact ⟨Nat.sub_sub _ n 1, Nat.sub_sub _ n 1⟩

/-! ### The load event, by the length of the ROM (R194, R195) -/

theorem keepsAllBut_with_loadErr (s : State) (b : Bool) : KeepsAllBut [.loadErr] s { s with loadErr := b } :=
  ⟨rfl, rfl, fun p hp => by cases p <;> simp_all [SamePart, State.reg, State.readByte]⟩

theorem State.load_of_too_large (s : State) (h : 3584 < rom.length) : s.load rom = { s with loadErr := true } :=
  if_pos h

theorem State.load_of_fits (s : State) (h : rom.length ≤ 3584) :
    s.load rom = { s.storeBytes 0x200 0 rom with
      pc := 0x200, sp := 0, v := Vector.replicate 16 0, waiting := false, loadErr := false } :=
  if_neg (Nat.not_lt.mpr h)

/-- Settles O50: the latch is the one field written. -/
theorem tooLargeRomChangesOnlyLoadErr : Obligations.TooLargeRomChangesOnlyLoadErr := by
  intro s rom h
  rw [s.load_of_too_large h]
  exact ⟨rfl, rfl, keepsAllBut_with_loadErr s true⟩

/-- R194, R195, over both lengths of ROM: the frame is that of the longer list of writes. -/
theorem State.load_keepsAllBut (s : State) (rom : List Byte) :
    KeepsAllBut [.memory, .stack, .regs, .waitLatches, .loadErr] s (s.load rom) := by
  obtain hlarge | hfits := Nat.lt_or_ge 3584 rom.length
  · rw [s.load_of_too_large hlarge]
    exact (keepsAllBut_with_loadErr s true).mono (by simp)
  · rw [s.load_of_fits hfits]
    have hmem := s.storeBytes_keepsAllBut 0x200 0 rom
    have hstack := hmem.trans (keepsAllBut_with_stack _ 0 (s.storeBytes 0x200 0 rom).stack)
    have hregs := hstack.trans (keepsAllBut_with_v _ (Vector.replicate 16 0))
    have hwait := hregs.trans (keepsAllBut_with_waiting _ false (s.storeBytes 0x200 0 rom).waitX)
    exact (hwait.trans (keepsAllBut_with_loadErr _ false)).trans (keepsAllBut_with_pc _ 0x200)

/-! ### The halted core (R26, R88, R169, R185) -/

theorem State.setKeys_keepsAllBut (s : State) (k : Word) :
    KeepsAllBut [.regs, .waitLatches, .keys] s (s.setKeys k) := by
  by_cases hno : s.waiting = false ∨ k &&& ~~~s.keys = 0
  · rw [State.setKeys_of_no_press hno]
    exact (keepsAllBut_with_keys s k).mono (by simp)
  · rw [not_or, Bool.not_eq_false] at hno
    obtain ⟨hw, hp⟩ := hno
    obtain ⟨_, _, _, _, _, _, hkeep⟩ := State.setKeys_completes_wait hw hp
    exact hkeep

theorem cycle_of_halted (h : s.halted = true) : cycle s = .next s :=
  cycle_of_not_running s (not_running_of_halted_or_waiting (.inl h))

/-- R185: a step event does nothing on a halted core, and load, tick and set_keys write no error latch on any core. -/
theorem applyEvent_keeps_errLatches_of_halted {e : Event} (hs : s.halted = true) (he : e ≠ .reset)
    (h : applyEvent e s = .next t) : SamePart s t .errLatches := by
  cases e with
  | reset => exact absurd rfl he
  | load rom => cases h; exact (s.load_keepsAllBut rom).samePart (by simp)
  | step => cases (cycle_of_halted hs).symm.trans h; exact ⟨rfl, rfl, rfl, rfl⟩
  | tick => cases h; exact s.tick_keepsAllBut.samePart (by simp)
  | setKeys k => cases h; exact (s.setKeys_keepsAllBut k).samePart (by simp)

theorem step_keeps_errLatches_of_halted (hs : s.halted = true) (he : s.schedule.head? ≠ some .reset)
    (h : step s = .next t) : SamePart s t .errLatches := by
  cases hsched : s.schedule with
  | nil =>
    exact applyEvent_keeps_errLatches_of_halted (e := .step) hs nofun ((step_of_schedule_nil s hsched).symm.trans h)
  | cons e es =>
    have hne : e ≠ .reset := by simpa [hsched] using he
    exact applyEvent_keeps_errLatches_of_halted (s := { s with schedule := es }) hs hne
      ((step_of_schedule_cons s e es hsched).symm.trans h)

/-- Settles O13: no event but reset writes an error latch of a halted core, `halted` among them. -/
theorem onlyResetLeavesTheHaltedState : Obligations.OnlyResetLeavesTheHaltedState := by
  intro s t h hs he
  obtain ⟨hhalted, hrecord⟩ := step_keeps_errLatches_of_halted hs he h
  exact ⟨hhalted.trans hs, hrecord⟩

/-! ### Totality (R166, R168) -/

/-- Settles O53: the invariant keeps SP away from the model's one stop. -/
theorem aStepNeverStopsTheMachine : Obligations.AStepNeverStopsTheMachine :=
  fun _ hi => step_answers hi.sp_in_bounds

end Sys2Proof.Machine
end

section
/-! SUPPORT. What every address and register reads as after the reset event and after a load that fits
(spec/70_reset_and_hazards.md R191 to R196). -/

namespace Sys2Proof.Machine

/-! ### The reset event (R191) -/

theorem resetByte_inside (font : Vector Byte 80) (j : Fin 80) : resetByte font (0x050 + j.val) = font[j] := by
  have hin : 0x050 ≤ 0x050 + j.val ∧ 0x050 + j.val < 0x0A0 := by omega
  simp [resetByte, hin]

/-- The font is read from the parameters the event keeps. -/
theorem State.readByte_resetEvent (s : State) (a : Nat) : s.resetEvent.readByte a = resetByte s.params.fontTable a :=
  s.resetEvent.readByte_of_empty rfl a

/-- Settles O47: the event leaves the fields of State.reset, so its lemmas apply, but memory reads the font of this
machine's own parameters. -/
theorem resetEventRestoresEveryValue : Obligations.ResetEventRestoresEveryValue := by
  intro s
  obtain ⟨hpc, hreg, hidx, hsp, hstack, hdt, hst, hfb, -⟩ := resetStateHasTheTableValues
  have hfont (j : Fin 80) : s.resetEvent.readByte (0x050 + j.val) = s.params.fontTable[j] := by
    rw [s.readByte_resetEvent, resetByte_inside]
  have hzero (a : Nat) (ha : a < 0x050 ∨ 0x0A0 ≤ a) : s.resetEvent.readByte a = 0 := by
    rw [s.readByte_resetEvent, resetByte_outside _ (by omega)]
  exact ⟨hpc, hreg, hidx, hsp, hstack, hdt, hst, hfb, hfont, hzero, rfl, rfl, rfl, rfl, rfl, rfl, rfl, rfl, rfl⟩

/-! ### A load that fits (R194, R196) -/

variable {rom : List Byte}

/-- Below the top of memory the ROM's addresses do not wrap. -/
theorem dataAddr_loadBase {i : Nat} (h : i < 3584) : dataAddr 0x200 i = 0x200 + i :=
  Nat.mod_eq_of_lt (show 0x200 + i < 4096 by omega)

theorem State.readByte_load_of_fits (s : State) (h : rom.length ≤ 3584) (a : Nat) :
    (s.load rom).readByte a = (s.storeBytes 0x200 0 rom).readByte a := by
  rw [s.load_of_fits h]
  rfl

theorem State.readByte_load_inside (s : State) (h : rom.length ≤ 3584) (i : Nat) (hi : i < rom.length) :
    (s.load rom).readByte (0x200 + i) = rom[i] := by
  have hstored := s.readByte_storeBytes 0x200 0 rom i hi (by omega)
  rwa [Nat.zero_add, dataAddr_loadBase (by omega), ← s.readByte_load_of_fits h] at hstored

theorem State.readByte_load_outside (s : State) (h : rom.length ≤ 3584) (a : Nat)
    (ha : a < 0x200 ∨ 0x200 + rom.length ≤ a) : (s.load rom).readByte a = s.readByte a := by
  rw [s.readByte_load_of_fits h]
  refine s.readByte_storeBytes_zero_outside fun j hj => ?_
  rw [dataAddr_loadBase (by omega)]
  omega

theorem State.reg_load_of_fits (s : State) (h : rom.length ≤ 3584) (r : Reg) : (s.load rom).reg r = 0 := by
  simp [s.load_of_fits h, State.reg]

/-- The stack entries and `waitX` stand beside fields that load does write, so its frame does not say this. -/
theorem State.stack_waitX_load_of_fits (s : State) (h : rom.length ≤ 3584) :
    (s.load rom).stack = s.stack ∧ (s.load rom).waitX = s.waitX := by
  obtain ⟨m, hm⟩ := s.storeBytes_eq 0x200 0 rom
  rw [s.load_of_fits h, hm]
  exact ⟨rfl, rfl⟩

/-- R196: what load sets beside the bytes and the registers. -/
theorem State.load_sets_of_fits (s : State) (h : rom.length ≤ 3584) :
    (s.load rom).pc = 0x200 ∧ (s.load rom).sp = 0 ∧ (s.load rom).waiting = false ∧ (s.load rom).loadErr = false := by
  rw [s.load_of_fits h]
  exact ⟨rfl, rfl, rfl, rfl⟩

/-- Settles O49: the ROM is stored without wrapping, the rest is set or in the frame of load. -/
theorem loadCopiesTheRom : Obligations.LoadCopiesTheRom := by
  intro s rom h
  obtain ⟨hpc, hsp, hwaiting, hloadErr⟩ := s.load_sets_of_fits h
  obtain ⟨hstack, hwaitX⟩ := s.stack_waitX_load_of_fits h
  exact ⟨s.readByte_load_inside h, s.readByte_load_outside h, hpc, hsp, hstack, s.reg_load_of_fits h, hwaiting, hwaitX,
    hloadErr, s.load_keepsAllBut rom⟩

end Sys2Proof.Machine
end
